-- ==== Sys2Proof/Word.lean ====
section
/-! DEFINITION. The word types of the gEInk panel-control core and the logic level. -/

namespace Sys2Proof

/-- A byte: an 8-bit unsigned value, bit 7 the most significant (R16). -/
abbrev Byte := BitVec 8

/-- Format H: the 11-bit host request, `op` in bits 10:8 and `arg` in bits 7:0 (R62). -/
abbrev RequestWord := BitVec 11

/-- Format U: the 14-bit ROM micro-operation, `p` in 13:11, `k` in 10:8, `v` in 7:0 (R65). -/
abbrev MicroWord := BitVec 14

/-- Format W: the 9-bit wire frame, `t` in bit 8 and `b` in bits 7:0 (R58). -/
abbrev FrameWord := BitVec 9

/-- Two bytes, wide enough for a word of any of the three formats, unused high bits 0. -/
abbrev Container := BitVec 16

/-- A level of a pin: `L` (low) or `H` (high) (R16). -/
inductive Level where
  | L
  | H
  deriving DecidableEq, Repr, Inhabited

/-- `not l` is the other level (R16). -/
def Level.other : Level → Level
  | .L => .H
  | .H => .L

end Sys2Proof
end

