-- ==== Sys2Proof/Syntax.lean ====
section
/-! DEFINITION. The instructions: the host requests (format H), the ROM micro-operations (format U) and
the wire frames (format W), one constructor of `Instr` per row of spec/opcode_table.json. -/

namespace Sys2Proof

/-- The three encodings of spec/30_encoding.md. Each layer reads its own: the host's request is an H
word, the sequencer's ROM entry a U word, what the framer sends a W word. -/
inductive Format where
  | request
  | micro
  | frame
  deriving DecidableEq, Repr

/-- The state annotation `p` of a ROM entry (R65): `keep` is 0, the others write `PSTATE`. -/
inductive Annot where
  | keep
  | resetting
  | configuring
  | ready
  | sleeping
  deriving DecidableEq, Repr

/-- The delay selectors of `uDLY` (R67). -/
inductive DelaySel where
  | rstPre
  | rstLow
  | rstPost
  | pon
  | refresh
  deriving DecidableEq, Repr

/-- The six micro-operation kinds with their operands (R66). -/
inductive MicroOp where
  | cmd (v : Byte)
  | dat (v : Byte)
  | rst (l : Level)
  | dly (d : DelaySel)
  | wrdy
  | done
  deriving DecidableEq, Repr

/-- A ROM entry: a micro-operation and its state annotation (R65). -/
structure RomEntry where
  annot : Annot
  op : MicroOp
  deriving DecidableEq, Repr

/-- `FMODE` and the frame type `t`: command or data (R25, R58). -/
inductive FrameMode where
  | cmd
  | dat
  deriving DecidableEq, Repr

/-- The instructions, in the order of spec/opcode_table.json. -/
inductive Instr where
  -- format H: the host requests (R63)
  | transmitByte (v : Byte)
  | sendCommand (c : Byte)
  | sendData (d : Byte)
  | hardwareReset
  | waitUntilReady
  | initializeOp
  | refreshAndSleep
  | reservedOp7
  -- format U: the ROM micro-operations (R66)
  | uCmd (p : Annot) (v : Byte)
  | uDat (p : Annot) (v : Byte)
  | uRst (p : Annot) (l : Level)
  | uDly (p : Annot) (d : DelaySel)
  | uWrdy (p : Annot)
  | uEnd (p : Annot)
  -- format W: the wire frames (R58, R60)
  | powerSetting
  | powerOn
  | panelSetting
  | resolutionSetting
  | cmd15
  | vcomDataInterval
  | tconSetting
  | startDataWrite
  | displayRefresh
  | powerOff
  | deepSleep
  | dataFrame (b : Byte)
  | commandFrameOther (b : Byte)
  deriving DecidableEq, Repr

/-- The encoding an instruction is written in. -/
def Instr.format : Instr → Format
  | .transmitByte _ | .sendCommand _ | .sendData _ | .hardwareReset | .waitUntilReady
  | .initializeOp | .refreshAndSleep | .reservedOp7 => .request
  | .uCmd _ _ | .uDat _ _ | .uRst _ _ | .uDly _ _ | .uWrdy _ | .uEnd _ => .micro
  | .powerSetting | .powerOn | .panelSetting | .resolutionSetting | .cmd15 | .vcomDataInterval
  | .tconSetting | .startDataWrite | .displayRefresh | .powerOff | .deepSleep
  | .dataFrame _ | .commandFrameOther _ => .frame

/-- A ROM entry as an instruction. -/
def RomEntry.toInstr (e : RomEntry) : Instr :=
  match e.op with
  | .cmd v => .uCmd e.annot v
  | .dat v => .uDat e.annot v
  | .rst l => .uRst e.annot l
  | .dly d => .uDly e.annot d
  | .wrdy => .uWrdy e.annot
  | .done => .uEnd e.annot

end Sys2Proof
end

