-- ==== Sys2Proof/WellFormed.lean ====
section
/-! DEFINITION. Which instructions are well formed. The types of `Syntax` already leave out the reserved
annotations, kinds, selectors and reset operands of R68; what is left is checked here. -/

namespace Sys2Proof

/-- The eleven command codes that have a row of their own (R60). -/
def namedCodes : List Byte :=
  [0x01, 0x04, 0x00, 0x61, 0x15, 0x50, 0x60, 0x13, 0x12, 0x02, 0x07]

/-- Well-formedness: COMMAND_FRAME_OTHER holds "any code not in the eleven above" (opcode table, R69),
and a program containing the reserved operation code 7 "is not well formed" (U1, R68). -/
def Instr.wf : Instr → Bool
  | .commandFrameOther b => !namedCodes.contains b
  | .reservedOp7 => false
  | .transmitByte _ | .sendCommand _ | .sendData _ | .hardwareReset | .waitUntilReady
  | .initializeOp | .refreshAndSleep => true
  | .uCmd _ _ | .uDat _ _ | .uRst _ _ | .uDly _ _ | .uWrdy _ | .uEnd _ => true
  | .powerSetting | .powerOn | .panelSetting | .resolutionSetting | .cmd15 | .vcomDataInterval
  | .tconSetting | .startDataWrite | .displayRefresh | .powerOff | .deepSleep
  | .dataFrame _ => true

end Sys2Proof
end

