-- ==== Sys2Proof/Decode.lean ====
section
/-! DEFINITION. The decoder of each of the three formats, total and rejecting by name, the reading of an
untagged word, and the encoder written from the same tables (spec/30_encoding.md). -/

namespace Sys2Proof

/-- Why a word is no instruction. Each reason is a reserved encoding of R68, an operand the kind does
not have, or a bit above the format's width. -/
inductive DecodeError where
  /-- ROM `k` = 6 or 7 (R68). -/
  | reservedKind
  /-- ROM `p` = 5 to 7 (R68). -/
  | reservedAnnotation
  /-- `uDLY` selector 5 to 255 (R68). -/
  | reservedSelector
  /-- `uRST` with `v[7:1]` not 0 (R68). -/
  | reservedResetOperand
  /-- `uWRDY` or `uEND` with `v` not 0: their operand is 0 (R66; DEDUCED, log entry 9). -/
  | operandNotZero
  /-- A 1 above the width of the format (R70: every format is fixed-length). -/
  | tooWide
  deriving DecidableEq, Repr

/-- `lvl(b)` is `H` when bit `b` is 1 and `L` when it is 0 (R16). -/
def lvl (b : Bool) : Level := if b then .H else .L

/-- The bit a level carries: `bit(H) = 1`, `bit(L) = 0` (R56). -/
def Level.toBool : Level → Bool
  | .H => true
  | .L => false

/-! ## Format H, the host request (R62 to R64) -/

/-- The operation code, bits 10:8 (R62). -/
def requestOp (w : RequestWord) : BitVec 3 := w.extractLsb' 8 3

/-- The byte operand, bits 7:0 (R62). -/
def requestArg (w : RequestWord) : Byte := w.extractLsb' 0 8

/-- Every host request decodes (R63); `arg` is ignored by the operations that take none (R64), and
code 7 is the reserved operation (R68). -/
def decodeRequest (w : RequestWord) : Instr :=
  let arg := requestArg w
  match (requestOp w).toNat with
  | 0 => .transmitByte arg
  | 1 => .sendCommand arg
  | 2 => .sendData arg
  | 3 => .hardwareReset
  | 4 => .waitUntilReady
  | 5 => .initializeOp
  | 6 => .refreshAndSleep
  | _ => .reservedOp7

/-! ## Format U, the ROM micro-operation (R65 to R68) -/

/-- The state annotation `p`, bits 13:11 (R65). -/
def decodeAnnot (p : BitVec 3) : Except DecodeError Annot :=
  match p.toNat with
  | 0 => .ok .keep
  | 1 => .ok .resetting
  | 2 => .ok .configuring
  | 3 => .ok .ready
  | 4 => .ok .sleeping
  | _ => .error .reservedAnnotation

/-- The delay selector of `uDLY` (R67). -/
def decodeSel (v : Byte) : Except DecodeError DelaySel :=
  match v.toNat with
  | 0 => .ok .rstPre
  | 1 => .ok .rstLow
  | 2 => .ok .rstPost
  | 3 => .ok .pon
  | 4 => .ok .refresh
  | _ => .error .reservedSelector

/-- The kind `k`, bits 10:8, with its operand `v` (R66). -/
def decodeKind (k : BitVec 3) (v : Byte) : Except DecodeError MicroOp :=
  match k.toNat with
  | 0 => .ok (.cmd v)
  | 1 => .ok (.dat v)
  | 2 => if v.toNat ≤ 1 then .ok (.rst (lvl (v.getLsbD 0))) else .error .reservedResetOperand
  | 3 => (decodeSel v).map .dly
  | 4 => if v.toNat = 0 then .ok .wrdy else .error .operandNotZero
  | 5 => if v.toNat = 0 then .ok .done else .error .operandNotZero
  | _ => .error .reservedKind

/-- A 14-bit ROM word `{p, k, v}` as an entry (R65). -/
def decodeEntry (w : MicroWord) : Except DecodeError RomEntry :=
  match decodeAnnot (w.extractLsb' 11 3) with
  | .error e => .error e
  | .ok p =>
    match decodeKind (w.extractLsb' 8 3) (w.extractLsb' 0 8) with
    | .error e => .error e
    | .ok o => .ok ⟨p, o⟩

/-- A 14-bit ROM word as an instruction. -/
def decodeMicro (w : MicroWord) : Except DecodeError Instr :=
  (decodeEntry w).map RomEntry.toInstr

/-! ## Format W, the wire frame (R58, R60, R69) -/

/-- The command frame of a code: the eleven named commands first, any other code is legal too (R69). -/
def commandFrame (b : Byte) : Instr :=
  if b = 0x01 then .powerSetting
  else if b = 0x04 then .powerOn
  else if b = 0x00 then .panelSetting
  else if b = 0x61 then .resolutionSetting
  else if b = 0x15 then .cmd15
  else if b = 0x50 then .vcomDataInterval
  else if b = 0x60 then .tconSetting
  else if b = 0x13 then .startDataWrite
  else if b = 0x12 then .displayRefresh
  else if b = 0x02 then .powerOff
  else if b = 0x07 then .deepSleep
  else .commandFrameOther b

/-- The instruction a frame type and a byte make (R58). -/
def frameInstr (m : FrameMode) (b : Byte) : Instr :=
  match m with
  | .cmd => commandFrame b
  | .dat => .dataFrame b

/-- The frame type bit `t`: 0 = command, 1 = data (R58). -/
def FrameMode.bit : FrameMode → BitVec 1
  | .cmd => 0
  | .dat => 1

/-- The frame type of a frame word, bit 8 (R58). -/
def frameMode (w : FrameWord) : FrameMode := if w.getLsbD 8 then .dat else .cmd

/-- The byte of a frame word, bits 7:0 (R58). -/
def frameByte (w : FrameWord) : Byte := w.extractLsb' 0 8

/-- Every 9-bit frame word decodes (R69). -/
def decodeFrame (w : FrameWord) : Instr := frameInstr (frameMode w) (frameByte w)

/-! ## One decoder over the three formats -/

/-- The decoder: total on every 16-bit container under each format; a 1 above the format's width is
rejected (R70). -/
def decode (f : Format) (w : Container) : Except DecodeError Instr :=
  match f with
  | .request =>
    if w.toNat < 2 ^ 11 then .ok (decodeRequest (w.extractLsb' 0 11)) else .error .tooWide
  | .micro =>
    if w.toNat < 2 ^ 14 then decodeMicro (w.extractLsb' 0 14) else .error .tooWide
  | .frame =>
    if w.toNat < 2 ^ 9 then .ok (decodeFrame (w.extractLsb' 0 9)) else .error .tooWide

/-- The format an `nbits`-wide word `w` is read in. The widths 9, 11 and 14 name it (R70). A whole
16-bit container names none, and the three formats share values: it is read as a host request where
bits 15:11 are 0, else as a ROM word where bits 15:14 are 0 (DESIGN CHOICE, log entry 8). -/
def tableFormat (nbits w : Nat) : Option Format :=
  if nbits = 9 then some .frame
  else if nbits = 11 then some .request
  else if nbits = 14 then some .micro
  else if nbits = 16 then
    if w < 2 ^ 11 then some .request
    else if w < 2 ^ 14 then some .micro
    else none
  else none

/-- What the decoder reads from a word of the opcode table (bit 0 least significant). -/
def decodeTableWord (nbits w : Nat) : Option Instr :=
  if w < 2 ^ nbits ∧ nbits ≤ 16 then
    match tableFormat nbits w with
    | none => none
    | some f =>
      match decode f (BitVec.ofNat 16 w) with
      | .ok i => some i
      | .error _ => none
  else none

/-! ## The encoder -/

/-- `{op, arg}` (R62). -/
def requestWord (op : BitVec 3) (arg : Byte) : RequestWord := op ++ arg


/-- The annotation code of R65. -/
def Annot.code : Annot → BitVec 3
  | .keep => 0
  | .resetting => 1
  | .configuring => 2
  | .ready => 3
  | .sleeping => 4

/-- The selector of R67. -/
def DelaySel.code : DelaySel → Byte
  | .rstPre => 0
  | .rstLow => 1
  | .rstPost => 2
  | .pon => 3
  | .refresh => 4

/-- The kind code of R66. -/
def MicroOp.kind : MicroOp → BitVec 3
  | .cmd _ => 0
  | .dat _ => 1
  | .rst _ => 2
  | .dly _ => 3
  | .wrdy => 4
  | .done => 5

/-- The operand byte of R66. -/
def MicroOp.operand : MicroOp → Byte
  | .cmd v => v
  | .dat v => v
  | .rst l => if l.toBool then 1 else 0
  | .dly d => d.code
  | .wrdy => 0
  | .done => 0

/-- The 14-bit word `{p, k, v}` of a ROM entry (R65). -/
def encodeEntry (e : RomEntry) : MicroWord := (e.annot.code ++ e.op.kind) ++ e.op.operand

/-- The 9-bit word `{t, b}` of a frame (R58). -/
def frameWord (m : FrameMode) (b : Byte) : FrameWord := m.bit ++ b

/-- The word of an instruction, in the container, from the tables of R58, R60, R63, R65 to R67. -/
def encode : Instr → Container
  | .transmitByte v => (requestWord 0 v).setWidth 16
  | .sendCommand c => (requestWord 1 c).setWidth 16
  | .sendData d => (requestWord 2 d).setWidth 16
  | .hardwareReset => (requestWord 3 0).setWidth 16
  | .waitUntilReady => (requestWord 4 0).setWidth 16
  | .initializeOp => (requestWord 5 0).setWidth 16
  | .refreshAndSleep => (requestWord 6 0).setWidth 16
  | .reservedOp7 => (requestWord 7 0).setWidth 16
  | .uCmd p v => (encodeEntry ⟨p, .cmd v⟩).setWidth 16
  | .uDat p v => (encodeEntry ⟨p, .dat v⟩).setWidth 16
  | .uRst p l => (encodeEntry ⟨p, .rst l⟩).setWidth 16
  | .uDly p d => (encodeEntry ⟨p, .dly d⟩).setWidth 16
  | .uWrdy p => (encodeEntry ⟨p, .wrdy⟩).setWidth 16
  | .uEnd p => (encodeEntry ⟨p, .done⟩).setWidth 16
  | .powerSetting => (frameWord .cmd 0x01).setWidth 16
  | .powerOn => (frameWord .cmd 0x04).setWidth 16
  | .panelSetting => (frameWord .cmd 0x00).setWidth 16
  | .resolutionSetting => (frameWord .cmd 0x61).setWidth 16
  | .cmd15 => (frameWord .cmd 0x15).setWidth 16
  | .vcomDataInterval => (frameWord .cmd 0x50).setWidth 16
  | .tconSetting => (frameWord .cmd 0x60).setWidth 16
  | .startDataWrite => (frameWord .cmd 0x13).setWidth 16
  | .displayRefresh => (frameWord .cmd 0x12).setWidth 16
  | .powerOff => (frameWord .cmd 0x02).setWidth 16
  | .deepSleep => (frameWord .cmd 0x07).setWidth 16
  | .dataFrame b => (frameWord .dat b).setWidth 16
  | .commandFrameOther b => (frameWord .cmd b).setWidth 16

end Sys2Proof
end

