-- ==== Sys2Proof/Config.lean ====
section
/-! DEFINITION. The implementation parameters (R10 to R15) and the one free value of the model: the
level a sample of `BUSY` sees when the environment's list of samples does not give it (R9, D30). -/

namespace Sys2Proof

/-- The parameters of one implementation. They are "named configuration constants (overridable at
build/initialization time)" (R10), so `State` carries one `Config`, no rule writes it, and every
statement that does not name a value holds for every value. The defaults are the spec's where it
gives one. The delays and the pin numbers are natural numbers: the spec gives natural defaults and
states no type (DESIGN CHOICE, log entry 7). -/
structure Config where
  /-- `DC_CMD`, the mode-select level of a command frame (R11). Default L: general knowledge (G1). -/
  dcCmd : Level := .L
  /-- `N_RST_PRE`, hold after the reset line is first driven high (R12). -/
  nRstPre : Nat := 200
  /-- `N_RST_LOW`, hold after the reset line is driven low (R12). -/
  nRstLow : Nat := 10
  /-- `N_RST_POST`, hold after the reset line is driven high again (R12). -/
  nRstPost : Nat := 200
  /-- `N_PON`, wait after the power-on command (R12). -/
  nPon : Nat := 100
  /-- `N_POLL`, the busy-line poll interval and the one extra wait (R12). -/
  nPoll : Nat := 20
  /-- `N_REFRESH`, settle after the display-refresh command (R12, R13). -/
  nRefresh : Nat := 100
  /-- `BUSY_TIMEOUT`: none is the source hardware (R15, R139). -/
  busyTimeout : Option Nat := none
  /-- `TU` in microseconds (R13). OPEN; no rule reads it. DESIGN CHOICE of 1000, and of a whole number of
  microseconds: the spec gives `TU` no type and no granularity (log entry 7). -/
  tuMicroseconds : Nat := 1000
  /-- `PIN_SCK` (R10). OPEN; no rule reads any pin number. DESIGN CHOICE of 0 to 5 (log entry 7). -/
  pinSck : Nat := 0
  /-- `PIN_DIN` (R10). -/
  pinDin : Nat := 1
  /-- `PIN_CS` (R10). -/
  pinCs : Nat := 2
  /-- `PIN_RST` (R10). -/
  pinRst : Nat := 3
  /-- `PIN_DC` (R10). -/
  pinDc : Nat := 4
  /-- `PIN_BUSY` (R10). -/
  pinBusy : Nat := 5
  deriving DecidableEq, Repr

/-- The parameters at the spec's defaults: the source hardware. -/
def Config.default : Config := {}

/-- The six pin numbers of R10. -/
def Config.pinNumbers (c : Config) : List Nat :=
  [c.pinSck, c.pinDin, c.pinCs, c.pinRst, c.pinDc, c.pinBusy]

/-- What the spec asks of a configuration: pin numbers pairwise distinct (R10),
`N_REFRESH * TU >= 200 microseconds` (R13), and `BUSY_TIMEOUT` none or at least 1 (R139). -/
def Config.wf (c : Config) : Bool :=
  decide c.pinNumbers.Nodup && decide (200 ≤ c.nRefresh * c.tuMicroseconds) &&
    (c.busyTimeout != some 0)

/-- FREE VALUE (log entry 4): the level that the `n`-th sample of `BUSY` sees where the state does not
list the environment's choice. "Every sample of BUSY is a free draw of a level" (R9). -/
opaque Config.freeBusy : Nat → Level

end Sys2Proof
end

