-- ==== Sys2Proof/Machine/State.lean ====
section
/-! DEFINITION. The state of the core as plain data, the reasons a step can stop, and the state after the
core's own reset (spec/10_state.md). -/

namespace Sys2Proof.Machine

/-- The five output pins of R20, the locations of the pin space the core writes (R41). -/
inductive OutPin where
  | sck
  | din
  | dc
  | cs
  | rst
  deriving DecidableEq, Repr

/-- The three kinds of event, and no other (R17). -/
inductive Event where
  /-- `W(p, l)`: the core writes level `l` to output pin `p`. -/
  | w (p : OutPin) (l : Level)
  /-- `S(l)`: the core samples `BUSY` and sees level `l`. -/
  | s (l : Level)
  /-- `T(n)`: the core waits at least `n` time-units. -/
  | t (n : Nat)
  deriving DecidableEq, Repr

/-- `TSTATE`, the transport phase (R24). -/
inductive TState where
  | idle
  | csl
  | setd
  | ckh
  | ckl
  | csh
  deriving DecidableEq, Repr

/-- `FSTATE`, the framer phase (R25). -/
inductive FState where
  | idle
  | dc
  | xmit
  deriving DecidableEq, Repr

/-- `OP`, the operation in progress (R26). -/
inductive Op where
  | idle
  | transmitByte
  | sendCommand
  | sendData
  | hardwareReset
  | waitUntilReady
  | initializeOp
  | refreshAndSleep
  deriving DecidableEq, Repr

/-- `WSTATE`, the phase of the busy wait (R28). -/
inductive WState where
  | sample
  | poll
  | final
  deriving DecidableEq, Repr

/-- `PSTATE`, the panel control state (R29). The reserved codes 5 to 7 are never written, so the type
does not hold them (U10). -/
inductive PanelState where
  | uninit
  | resetting
  | configuring
  | ready
  | sleeping
  deriving DecidableEq, Repr

/-- The whole machine. The registers of spec/10_state.md; the configuration, fixed for a run (R10 to
R15); the environment's inputs (R9: the host's program, the panel's levels); and the trace, the core's
observable behaviour (R17). -/
structure State where
  /-- The implementation parameters; no step writes them (log entry 6). -/
  cfg : Config
  /-- `SCK`, the clock pin (R20). -/
  sck : Level
  /-- `DIN`, the data pin (R20). -/
  din : Level
  /-- `DC`, the mode-select pin (R20). -/
  dc : Level
  /-- `CS`, the chip-select pin, active low (R20, R11). -/
  cs : Level
  /-- `RST`, the panel's reset line (R20). -/
  rst : Level
  /-- `SR[7:0]`, the shift register (R22). -/
  sr : Byte
  /-- `BITCNT`, 0 to 8, the bits still to be sent (R23). -/
  bitcnt : Fin 9
  /-- `TSTATE` (R24). -/
  tstate : TState
  /-- `ARG[7:0]`, the byte a framed operation will send (R25). -/
  arg : Byte
  /-- `FMODE` (R25). -/
  fmode : FrameMode
  /-- `FSTATE` (R25). -/
  fstate : FState
  /-- `OP` (R26). -/
  op : Op
  /-- `UPC[5:0]`, the micro-program counter (R27). -/
  upc : BitVec 6
  /-- `WSTATE` (R28). -/
  wstate : WState
  /-- `POLLCNT`, the busy samples of the current wait (R28, R139). -/
  pollcnt : Nat
  /-- `PSTATE` (R29). -/
  pstate : PanelState
  /-- `STATUS[7:0]` (R30). -/
  status : Byte
  /-- The requests the host will issue, oldest first: the program (R9, R32). -/
  requests : List RequestWord
  /-- The levels the next samples of `BUSY` see, as far as the environment's choice is listed (R9, D30). -/
  busyIn : List Level
  /-- How many samples have been taken: the model's own counter for the free draws (log entry 4). -/
  sampleNo : Nat
  /-- The events emitted so far, in time order (R17; the model's own record, log entry 5). -/
  trace : List Event
  deriving DecidableEq, Repr

/-- Why the machine stops with a fault. The core itself raises none (R133); both are reached only from
states no run reaches, and stopping there is safe. -/
inductive Fault where
  /-- `ROM[a]` for an address `a` outside 0 to 45 (R40, R42); raised by Enter, Complete and the
  sequencer's fetch. Safe. -/
  | romAddressAbsent
  /-- A step is asked of a layer that has none due: `OP` is a byte operation with neither a transmission
  nor a frame in progress (R39). Raised by the fetch and the transport. Safe. -/
  | noStepDue
  deriving DecidableEq, Repr

/-- Why an instruction is given no meaning. -/
inductive Refusal where
  /-- An arm of `exec` that has no meaning yet. Raised by `exec`. Safe. -/
  | notModelled (mnemonic : String)
  /-- The reserved operation code 7: "the core gives it no meaning; a host must not issue it; a model
  refuses it" (R68, U1). Raised by RESERVED_OP7. Safe. -/
  | reservedOperationCode
  deriving DecidableEq, Repr

/-- The three outcomes of a step of this machine. -/
abbrev Result := Host.Outcome State Fault Refusal

/-- The machine right after the core's own reset (R38, R146), at the default configuration, with no
request waiting and nothing emitted. `DIN`, `DC`, `RST`, `SR`, `ARG`, `FMODE`, `UPC`, `WSTATE` and
`POLLCNT` are unspecified there; the values below for them are a DESIGN CHOICE (log entry 2). -/
def State.reset : State where
  cfg := Config.default
  sck := .L
  din := .L
  dc := .L
  cs := .H
  rst := .L
  sr := 0
  bitcnt := 0
  tstate := .idle
  arg := 0
  fmode := .cmd
  fstate := .idle
  op := .idle
  upc := 0
  wstate := .sample
  pollcnt := 0
  pstate := .uninit
  status := 0
  requests := []
  busyIn := []
  sampleNo := 0
  trace := []

end Sys2Proof.Machine
end

