-- ==== Sys2Proof/Machine/Flags.lean ====
section
/-! DEFINITION. The core has no flags and no condition codes (R31). Here are the few conditions a rule
tests and the values of the one result code. -/

namespace Sys2Proof.Machine

/-- The one condition tested on data from outside: ready is high (`BUSY_READY`, R11, R31, R101). -/
def busyReady (l : Level) : Bool := l == .H

/-- `STATUS` 0: success (R30, R134). -/
def statusSuccess : Byte := 0

/-- `STATUS` 1: `Timeout`, written only when `BUSY_TIMEOUT` is set (R30, R134, R139). -/
def statusTimeout : Byte := 1

/-- Whether the bit counter has run out, tested after the decrement (R78). -/
def noBitsLeft (n : Fin 9) : Bool := n == 0

/-- Whether a wait that has now seen `count` busy samples gives up (R139); never without a timeout. -/
def waitGivesUp (timeout : Option Nat) (count : Nat) : Bool := timeout == some count

end Sys2Proof.Machine
end

