-- ==== Sys2Proof/Machine/Operands.lean ====
section
/-! DEFINITION. What operands and parameters stand for: the mode-select levels, the delay a selector
names, the panel-state codes, and which operations run a micro-program. -/

namespace Sys2Proof.Machine

/-- The mode-select level of a frame: `DC_CMD`, or `DC_DAT`, the other level (R11, R58). -/
def dcLevel (c : Config) : FrameMode → Level
  | .cmd => c.dcCmd
  | .dat => c.dcCmd.other

/-- `N[s]`: the constant a delay selector names (R67). -/
def delayOf (c : Config) : DelaySel → Nat
  | .rstPre => c.nRstPre
  | .rstLow => c.nRstLow
  | .rstPost => c.nRstPost
  | .pon => c.nPon
  | .refresh => c.nRefresh

/-- The code of a panel state, as the host reads it (R29). -/
def panelCode : PanelState → BitVec 3
  | .uninit => 0
  | .resetting => 1
  | .configuring => 2
  | .ready => 3
  | .sleeping => 4

/-- The panel state an annotation writes, if any (R65). -/
def annotState : Annot → Option PanelState
  | .keep => none
  | .resetting => some .resetting
  | .configuring => some .configuring
  | .ready => some .ready
  | .sleeping => some .sleeping

/-- The three transport and framer operations (R30, R79). -/
def isByteOp : Op → Bool
  | .transmitByte | .sendCommand | .sendData => true
  | .idle | .hardwareReset | .waitUntilReady | .initializeOp | .refreshAndSleep => false

/-- The four sequencer operations: they run a micro-program (R26). -/
def isSequencerOp : Op → Bool
  | .hardwareReset | .waitUntilReady | .initializeOp | .refreshAndSleep => true
  | .idle | .transmitByte | .sendCommand | .sendData => false

end Sys2Proof.Machine
end

