-- ==== Sys2Proof/Machine/Rom.lean ====
section
/-! DEFINITION. The sequence ROM: 46 read-only words, fixed at build time (R42, R55). -/

namespace Sys2Proof.Machine

/-- `P_RESET`, addresses 0 to 6 (R108). -/
def romReset : List MicroWord :=
  [0x0A01, 0x0300, 0x0200, 0x0301, 0x0201, 0x0302, 0x0500]

/-- `P_WAIT`, addresses 7 to 8 (R108). -/
def romWait : List MicroWord :=
  [0x0400, 0x0500]

/-- `P_INIT`, addresses 9 to 38 (R122). -/
def romInit : List MicroWord :=
  [0x0A01, 0x0300, 0x0200, 0x0301, 0x0201, 0x1302] ++
  [0x0001, 0x0107, 0x0107, 0x013F, 0x013F] ++
  [0x0004, 0x0303, 0x0400] ++
  [0x0000, 0x011F] ++
  [0x0061, 0x0103, 0x0120, 0x0101, 0x01E0] ++
  [0x0015, 0x0100] ++
  [0x0050, 0x0110, 0x0107] ++
  [0x0060, 0x0122] ++
  [0x0013] ++
  [0x1D00]

/-- `P_RFSL`, addresses 39 to 45 (R128). -/
def romRefresh : List MicroWord :=
  [0x0012, 0x0304, 0x0002, 0x0400, 0x0007, 0x01A5, 0x2500]

/-- The sequence ROM, addresses 0 to 45 (R42). -/
def rom : List MicroWord := romReset ++ romWait ++ romInit ++ romRefresh

/-- `ROM[a]` (R18): the entry at address `a`, none outside the ROM. -/
def romEntry (a : Nat) : Option RomEntry :=
  match rom[a]? with
  | none => none
  | some w =>
    match decodeEntry w with
    | .ok e => some e
    | .error _ => none

/-- The entry address of each sequencer operation (R96); the other operations run no program. -/
def entryAddress : Op → Option Nat
  | .hardwareReset => some 0
  | .waitUntilReady => some 7
  | .initializeOp => some 9
  | .refreshAndSleep => some 39
  | .idle | .transmitByte | .sendCommand | .sendData => none

/-- The operation whose program holds an address (R42). -/
def programOf (a : Nat) : Op :=
  if a < 7 then .hardwareReset
  else if a < 9 then .waitUntilReady
  else if a < 39 then .initializeOp
  else .refreshAndSleep

/-- The first address that holds a word, if the ROM holds it. -/
def romFind (w : MicroWord) : Option Nat := rom.findIdx? (· == w)

end Sys2Proof.Machine
end

