-- ==== Sys2Proof/Machine/Ops.lean ====
section
/-! DEFINITION. The named operations: the event primitives over the pin space (R18), the start of a byte
(R74), arming the framer (R88, R96), the panel-state annotation, entering and completing a
micro-operation (R96), ending an operation, and the block reset. The core takes no exception (R133,
R137); the one way an operation is abandoned is `abandonWait`, the busy-wait timeout of R139. -/

namespace Sys2Proof.Machine

/-! ## Event primitives (R18) -/

/-- Append one event to the trace (R17). -/
def emit (e : Event) (s : State) : State := { s with trace := s.trace ++ [e] }

/-- Give one pin register a level; it changes exactly one (R20). -/
def setPin (p : OutPin) (l : Level) (s : State) : State :=
  match p with
  | .sck => { s with sck := l }
  | .din => { s with din := l }
  | .dc => { s with dc := l }
  | .cs => { s with cs := l }
  | .rst => { s with rst := l }

/-- The level an output pin holds. No rule of the core reads it (R20); the frames and the monitor do. -/
def pinLevel (s : State) : OutPin → Level
  | .sck => s.sck
  | .din => s.din
  | .dc => s.dc
  | .cs => s.cs
  | .rst => s.rst

/-- `PinWrite(p, l)`: emits `W(p, l)` and sets the pin register (R18). -/
def pinWrite (p : OutPin) (l : Level) (s : State) : State := emit (.w p l) (setPin p l s)

/-- The level the next sample of `BUSY` sees: the environment's listed choice, else the free value
(R21, D30; log entry 4). -/
def busyLevel (s : State) : Level :=
  match s.busyIn with
  | l :: _ => l
  | [] => Config.freeBusy s.sampleNo

/-- `PinRead(BUSY)`: emits `S(l)` for the level seen and uses up that draw (R18, R21). -/
def pinRead (s : State) : State :=
  emit (.s (busyLevel s)) { s with busyIn := s.busyIn.tail, sampleNo := s.sampleNo + 1 }

/-- `Delay(n)`: emits `T(n)`; no pin changes (R17, R18). -/
def delay (n : Nat) (s : State) : State := emit (.t n) s

/-! ## Starting a byte and a frame -/

/-- The start of a transmission of `v`; it emits no event (R74). -/
def loadByte (v : Byte) (s : State) : State := { s with sr := v, bitcnt := 8, tstate := .csl }

/-- Arm the framer with a byte and its mode; it emits no event (R88, R89, R96). -/
def armFrame (m : FrameMode) (v : Byte) (s : State) : State :=
  { s with arg := v, fmode := m, fstate := .dc }

/-! ## Micro-operations (R96) -/

/-- The state annotation of a ROM entry, applied when the entry completes (R65, R109). -/
def annotate (p : Annot) (s : State) : State :=
  match annotState p with
  | none => s
  | some q => { s with pstate := q }

/-- `uEND`: the annotation, `STATUS <- 0`, `OP <- IDLE`: the operation has returned (R96, R102). -/
def endProgram (p : Annot) (s : State) : State :=
  { annotate p s with status := statusSuccess, op := .idle }

/-- What entering a micro-operation does beside setting `UPC` (the case split of Enter, R96). -/
def startMicro (e : RomEntry) (s : State) : State :=
  match e.op with
  | .cmd v => armFrame .cmd v s
  | .dat v => armFrame .dat v s
  | .wrdy => { s with wstate := .sample, pollcnt := 0 }
  | .rst _ => s
  | .dly _ => s
  | .done => endProgram e.annot s

/-- `Enter(a)` (R96). An address outside the ROM faults; no run gets there (R27). -/
def enter (a : Nat) (s : State) : Result :=
  match romEntry a with
  | none => .fault .romAddressAbsent
  | some e => .next (startMicro e { s with upc := BitVec.ofNat 6 a })

/-- `Complete` of an entry with annotation `p` at `UPC`: apply it and enter the next address (R96). -/
def completeWith (p : Annot) (s : State) : Result := enter (s.upc.toNat + 1) (annotate p s)

/-- `Complete(UPC)`: the annotation is that of `ROM[UPC]` (R96). -/
def complete (s : State) : Result :=
  match romEntry s.upc.toNat with
  | none => .fault .romAddressAbsent
  | some e => completeWith e.annot s

/-- The busy wait gives up: `STATUS <- 1`, `OP <- IDLE`, nothing else of the program is performed
(R139). -/
def abandonWait (s : State) : State := { s with status := statusTimeout, op := .idle }

/-! ## Where each layer takes an instruction (R26, R39, R74)

Outside these states the instruction is held: nothing changes (R136; log entry 12). -/

/-- A host request is accepted only when `OP = IDLE` (R26); otherwise it is held and changes nothing
(R136). -/
def whenIdle (s : State) (r : Result) : Result := if s.op = .idle then r else .next s

/-- The framer sends a frame at `FSTATE = F_DC`, reached with `TSTATE = T_IDLE` (R90); it never starts a
transmission over another (R74). -/
def frameDue (s : State) : Bool := decide (s.tstate = .idle) && decide (s.fstate = .dc)

/-- The frame `r` starts where one is due. -/
def whenFrameDue (s : State) (r : Result) : Result := if frameDue s then r else .next s

/-- The sequencer performs a micro-operation when neither the transport nor the framer has a step and
`OP` is a sequencer operation (R39). -/
def microDue (s : State) : Bool :=
  decide (s.tstate = .idle) && decide (s.fstate ≠ .dc) && isSequencerOp s.op

/-- The micro-operation `r` is performed where one is due. -/
def whenMicroDue (s : State) (r : Result) : Result := if microDue s then r else .next s

/-! ## The host's ports and the block reset -/

/-- The host may read `PSTATE` at any time (R29). -/
def pstatePort (s : State) : BitVec 3 := panelCode s.pstate

/-- The host may read `STATUS` whenever the core is idle (R30). -/
def statusPort (s : State) : Option Byte := if s.op = .idle then some s.status else none

/-- The block reset (R146): the registers take their reset values, the parameters and the environment
stay, and nothing is emitted: a run starts here. It is no step (D31); the host's unaccepted requests
stay with the host. The registers R38 leaves unspecified take the values of `State.reset` (log entries
2 and 15). -/
def blockReset (s : State) : State :=
  { State.reset with
    cfg := s.cfg, requests := s.requests, busyIn := s.busyIn, sampleNo := s.sampleNo }

end Sys2Proof.Machine
end

