-- ==== Sys2Proof/Machine/Framer.lean ====
section
/-! DEFINITION. The command/data framer: SEND_COMMAND and SEND_DATA (R88, R89), and the frames it puts on
the wire (R58, R90). A panel command's row is its command frame; the data bytes that follow it in a
sequence are DATA_FRAMEs of their own (R59, log entry 11). -/

namespace Sys2Proof.Machine

/-- FramerStep at `F_DC` for a frame of mode `m` and byte `b`: the mode-select write, then the start of
the transmission (R90). -/
def sendFrame (m : FrameMode) (b : Byte) (s : State) : Result :=
  whenFrameDue s
    (.next { loadByte b (pinWrite .dc (dcLevel s.cfg m) s) with fstate := .xmit })

/-- SEND_COMMAND `c`: acceptance; no event (R88). -/
def execSendCommand (c : Byte) (s : State) : Result :=
  whenIdle s (.next { armFrame .cmd c s with op := .sendCommand })

/-- SEND_DATA `d`: acceptance; no event (R89). -/
def execSendData (d : Byte) (s : State) : Result :=
  whenIdle s (.next { armFrame .dat d s with op := .sendData })

/-- POWER_SETTING, command frame 0x01 (R60, R110). -/
def execPowerSetting (s : State) : Result := sendFrame .cmd 0x01 s

/-- POWER_ON, command frame 0x04 (R60, R111). -/
def execPowerOn (s : State) : Result := sendFrame .cmd 0x04 s

/-- PANEL_SETTING, command frame 0x00 (R60, R112). -/
def execPanelSetting (s : State) : Result := sendFrame .cmd 0x00 s

/-- RESOLUTION_SETTING, command frame 0x61 (R60, R113). -/
def execResolutionSetting (s : State) : Result := sendFrame .cmd 0x61 s

/-- CMD_15, command frame 0x15 (R60, R114). -/
def execCmd15 (s : State) : Result := sendFrame .cmd 0x15 s

/-- VCOM_DATA_INTERVAL, command frame 0x50 (R60, R115). -/
def execVcomDataInterval (s : State) : Result := sendFrame .cmd 0x50 s

/-- TCON_SETTING, command frame 0x60 (R60, R116). -/
def execTconSetting (s : State) : Result := sendFrame .cmd 0x60 s

/-- START_DATA_WRITE, command frame 0x13 (R60, R117). -/
def execStartDataWrite (s : State) : Result := sendFrame .cmd 0x13 s

/-- DISPLAY_REFRESH, command frame 0x12 (R60, R118). -/
def execDisplayRefresh (s : State) : Result := sendFrame .cmd 0x12 s

/-- POWER_OFF, command frame 0x02 (R60, R119). -/
def execPowerOff (s : State) : Result := sendFrame .cmd 0x02 s

/-- DEEP_SLEEP, command frame 0x07 (R60, R120). -/
def execDeepSleep (s : State) : Result := sendFrame .cmd 0x07 s

/-- DATA_FRAME `b`: any byte with the mode-select line at the data level (R58, R90). -/
def execDataFrame (b : Byte) (s : State) : Result := sendFrame .dat b s

/-- COMMAND_FRAME_OTHER `b`: any other code is sent like a named command (R69, R90). -/
def execCommandFrameOther (b : Byte) (s : State) : Result := sendFrame .cmd b s

end Sys2Proof.Machine
end

