-- ==== Sys2Proof/Machine/Sequencer.lean ====
section
/-! DEFINITION. The sequencer: the six micro-operations (R97 to R102) and the four host operations that
run a micro-program (R103, R105, R121, R127), with the reserved operation code 7 (R68). -/

namespace Sys2Proof.Machine

/-! ## Micro-operations -/

/-- `uCMD v`: arm the framer with a command frame; its 27 events are the framer's and the transport's
(R97). Enter does the same (R96). -/
def execUCmd (v : Byte) (s : State) : Result := whenMicroDue s (.next (armFrame .cmd v s))

/-- `uDAT v`: arm the framer with a data frame (R98). -/
def execUDat (v : Byte) (s : State) : Result := whenMicroDue s (.next (armFrame .dat v s))

/-- `uRST l`: drive the reset line and complete (R99). -/
def execURst (p : Annot) (l : Level) (s : State) : Result :=
  whenMicroDue s (completeWith p (pinWrite .rst l s))

/-- `uDLY d`: one wait of at least `N[d]` time-units, and complete (R100). -/
def execUDly (p : Annot) (d : DelaySel) (s : State) : Result :=
  whenMicroDue s (completeWith p (delay (delayOf s.cfg d) s))

/-- What a sample of `BUSY` leads to: ready ends the polling; busy polls again, or, when `BUSY_TIMEOUT`
is set, counts and may give up (R101, R139). `t` is the state after the sample of level `l`. -/
def afterSample (l : Level) (t : State) : State :=
  if busyReady l then { t with wstate := .final }
  else
    match t.cfg.busyTimeout with
    | none => { t with wstate := .poll }
    | some n =>
      if waitGivesUp (some n) (t.pollcnt + 1) then abandonWait { t with pollcnt := t.pollcnt + 1 }
      else { t with pollcnt := t.pollcnt + 1, wstate := .poll }

/-- `uWRDY`: one step of the busy wait, by `WSTATE` (R101). -/
def execUWrdy (p : Annot) (s : State) : Result :=
  whenMicroDue s
    (match s.wstate with
    | .sample => .next (afterSample (busyLevel s) (pinRead s))
    | .poll => .next { delay s.cfg.nPoll s with wstate := .sample }
    | .final => completeWith p (delay s.cfg.nPoll s))

/-- `uEND`: the operation returns; no event. Enter does the same (R102, R96). -/
def execUEnd (p : Annot) (s : State) : Result := whenMicroDue s (.next (endProgram p s))

/-! ## Host operations that run a micro-program -/

/-- `Accept(op)`: `OP <- op`, then `Enter(entry(op))`; no event (R96). -/
def accept (o : Op) (a : Nat) (s : State) : Result := whenIdle s (enter a { s with op := o })

/-- HARDWARE_RESET enters `P_RESET` at address 0 (R103, R96). -/
def execHardwareReset (s : State) : Result := accept .hardwareReset 0 s

/-- WAIT_UNTIL_READY enters `P_WAIT` at address 7 (R105, R96). -/
def execWaitUntilReady (s : State) : Result := accept .waitUntilReady 7 s

/-- INITIALIZE enters `P_INIT` at address 9 (R121, R96). -/
def execInitialize (s : State) : Result := accept .initializeOp 9 s

/-- REFRESH_AND_SLEEP enters `P_RFSL` at address 39 (R127, R96). -/
def execRefreshAndSleep (s : State) : Result := accept .refreshAndSleep 39 s

/-- RESERVED_OP7: "the core gives it no meaning; a host must not issue it; a model refuses it" (R68, U1). -/
def execReservedOp7 (_ : State) : Result := .refused .reservedOperationCode

end Sys2Proof.Machine
end

