-- ==== Sys2Proof/Machine/Transport.lean ====
section
/-! DEFINITION. The bit-level transport: its five steps (R75 to R79) and the host operation
TRANSMIT_BYTE (R73, R74). -/

namespace Sys2Proof.Machine

/-- The shift of R78: left by one, zero into bit 0, the old bit 7 dropped (R87). -/
def shiftLeft (v : Byte) : Byte := v <<< 1

/-- One bit fewer to send (R78). `BITCNT` is never decremented at 0 in a run (R87). -/
def countDown (n : Fin 9) : Fin 9 := ⟨n.val - 1, by omega⟩

/-- TransportStep at `T_CSL`: chip-select active (R75). -/
def stepAssertCs (s : State) : State := { pinWrite .cs .L s with tstate := .setd }

/-- TransportStep at `T_SETD`: the data line takes the most significant bit of `SR` (R76). -/
def stepSetData (s : State) : State :=
  { pinWrite .din (lvl (s.sr.getLsbD 7)) s with tstate := .ckh }

/-- TransportStep at `T_CKH`: clock high (R77). -/
def stepClockHigh (s : State) : State := { pinWrite .sck .H s with tstate := .ckl }

/-- TransportStep at `T_CKL`: clock low, shift and count (R78). -/
def stepClockLow (s : State) : State :=
  { pinWrite .sck .L s with
    sr := shiftLeft s.sr
    bitcnt := countDown s.bitcnt
    tstate := if noBitsLeft (countDown s.bitcnt) then .csh else .setd }

/-- The return to the framer, in the step that ends the transmission (R79, R91). -/
def framerReturn (f : FState) : FState :=
  match f with
  | .xmit => .idle
  | .idle => .idle
  | .dc => .dc

/-- Chip-select released, transport idle, the framer returned (first lines of R79). -/
def releaseCs (s : State) : State :=
  { pinWrite .cs .H s with tstate := .idle, fstate := framerReturn s.fstate }

/-- TransportStep at `T_CSH`: chip-select inactive, and the return: a byte operation is over, otherwise
the micro-operation that asked for the byte completes (R79). -/
def stepReleaseCs (s : State) : Result :=
  if isByteOp s.op then .next { releaseCs s with op := .idle } else complete (releaseCs s)

/-- TransportStep (R39, R75 to R79). -/
def transportStep (s : State) : Result :=
  match s.tstate with
  | .idle => .fault .noStepDue
  | .csl => .next (stepAssertCs s)
  | .setd => .next (stepSetData s)
  | .ckh => .next (stepClockHigh s)
  | .ckl => .next (stepClockLow s)
  | .csh => stepReleaseCs s

/-- TRANSMIT_BYTE `v`: acceptance loads the byte and starts the transport; no event (R73, R74). -/
def execTransmitByte (v : Byte) (s : State) : Result :=
  whenIdle s (.next { loadByte v s with op := .transmitByte })

end Sys2Proof.Machine
end

