-- ==== Sys2Proof/Machine/Dispatch.lean ====
section
/-! DEFINITION. The meaning of every instruction, one arm per constructor. -/

namespace Sys2Proof.Machine

def exec (i : Instr) (s : State) : Host.Outcome State Fault Refusal :=
  match i with
  -- format H: the host requests
  | .transmitByte v => Sys2Proof.Machine.execTransmitByte v s
  | .sendCommand c => Sys2Proof.Machine.execSendCommand c s
  | .sendData d => Sys2Proof.Machine.execSendData d s
  | .hardwareReset => Sys2Proof.Machine.execHardwareReset s
  | .waitUntilReady => Sys2Proof.Machine.execWaitUntilReady s
  | .initializeOp => Sys2Proof.Machine.execInitialize s
  | .refreshAndSleep => Sys2Proof.Machine.execRefreshAndSleep s
  | .reservedOp7 => Sys2Proof.Machine.execReservedOp7 s
  -- format U: the ROM micro-operations
  | .uCmd _ v => Sys2Proof.Machine.execUCmd v s
  | .uDat _ v => Sys2Proof.Machine.execUDat v s
  | .uRst p l => Sys2Proof.Machine.execURst p l s
  | .uDly p d => Sys2Proof.Machine.execUDly p d s
  | .uWrdy p => Sys2Proof.Machine.execUWrdy p s
  | .uEnd p => Sys2Proof.Machine.execUEnd p s
  -- format W: the wire frames
  | .powerSetting => Sys2Proof.Machine.execPowerSetting s
  | .powerOn => Sys2Proof.Machine.execPowerOn s
  | .panelSetting => Sys2Proof.Machine.execPanelSetting s
  | .resolutionSetting => Sys2Proof.Machine.execResolutionSetting s
  | .cmd15 => Sys2Proof.Machine.execCmd15 s
  | .vcomDataInterval => Sys2Proof.Machine.execVcomDataInterval s
  | .tconSetting => Sys2Proof.Machine.execTconSetting s
  | .startDataWrite => Sys2Proof.Machine.execStartDataWrite s
  | .displayRefresh => Sys2Proof.Machine.execDisplayRefresh s
  | .powerOff => Sys2Proof.Machine.execPowerOff s
  | .deepSleep => Sys2Proof.Machine.execDeepSleep s
  | .dataFrame b => Sys2Proof.Machine.execDataFrame b s
  | .commandFrameOther b => Sys2Proof.Machine.execCommandFrameOther b s

end Sys2Proof.Machine
end

