-- ==== Sys2Proof/Machine/Fetch.lean ====
section
/-! DEFINITION. What the next step runs, decided by the registers alone, innermost layer first (R39), and
how a word is put where that step takes it. -/

namespace Sys2Proof.Machine

/-- What the next step does. -/
inductive Due where
  /-- The core is idle and no request is presented: it waits (R39). -/
  | waiting
  /-- A byte is being shifted out: TransportStep. -/
  | transport
  /-- An instruction is taken, and run in the state given. -/
  | instr (i : Instr) (s : State)
  /-- No layer has a step; no run gets here. -/
  | stuck (r : Fault)

/-- The host's next request, taken only when `OP = IDLE` (R26, R136). -/
def dueRequest (s : State) : Due :=
  match s.requests with
  | [] => .waiting
  | w :: ws => .instr (decodeRequest w) { s with requests := ws }

/-- The frame the framer is to send is the frame word `{FMODE, ARG}` (R58, R90). -/
def dueFrame (s : State) : Due := .instr (decodeFrame (frameWord s.fmode s.arg)) s

/-- The micro-operation at `UPC`, when `OP` is a sequencer operation (R39). -/
def dueMicro (s : State) : Due :=
  if isSequencerOp s.op then
    match romEntry s.upc.toNat with
    | none => .stuck .romAddressAbsent
    | some e => .instr e.toInstr s
  else .stuck .noStepDue

/-- The choice of layer (R39). -/
def due (s : State) : Due :=
  if s.op = .idle then dueRequest s
  else if s.tstate ≠ .idle then .transport
  else if s.fstate = .dc then dueFrame s
  else dueMicro s

/-- Present a request to an idle core, before those already waiting. -/
def placeRequest (w : RequestWord) (s : State) : State :=
  { s with op := .idle, tstate := .idle, fstate := .idle, requests := w :: s.requests }

/-- The operation under which a frame of a mode is sent when none is in progress (R88, R89). -/
def frameOp (m : FrameMode) (o : Op) : Op :=
  match o with
  | .idle => match m with | .cmd => .sendCommand | .dat => .sendData
  | o => o

/-- Give the framer a frame to send next. -/
def placeFrame (w : FrameWord) (s : State) : State :=
  { s with
    op := frameOp (frameMode w) s.op, tstate := .idle, fstate := .dc
    fmode := frameMode w, arg := frameByte w }

/-- Select a ROM word as the next micro-operation: `UPC` at the first address that holds it. The ROM
cannot be written (R55), so a word it does not hold is placed nowhere (log entry 8). -/
def placeMicro (w : MicroWord) (s : State) : State :=
  match romFind w with
  | none => s
  | some a =>
    { s with
      op := programOf a, tstate := .idle, fstate := .idle
      upc := BitVec.ofNat 6 a, wstate := .sample, pollcnt := 0 }

/-- Put the word of an opcode-table row where the next step takes it. -/
def placeWord (nbits w : Nat) (s : State) : State :=
  match tableFormat nbits w with
  | none => s
  | some .request => placeRequest (BitVec.ofNat 11 w) s
  | some .micro => placeMicro (BitVec.ofNat 14 w) s
  | some .frame => placeFrame (BitVec.ofNat 9 w) s

end Sys2Proof.Machine
end

