-- ==== Sys2Proof/Machine/Step.lean ====
section
/-! DEFINITION. One step of the machine (R39). -/

namespace Sys2Proof.Machine

/-- One step: while an operation is in progress, one event of the innermost layer that has one due;
when the core is idle, the acceptance of the host's next request, and with none presented the core
waits as it is (R39). -/
def step (s : State) : Host.Outcome State Fault Refusal :=
  match due s with
  | .waiting => .next s
  | .transport => transportStep s
  | .instr i t => exec i t
  | .stuck r => .fault r

/-- `s` with an instruction's word placed where `step` takes its next instruction (log entry 3). -/
def State.withFetchWord (s : State) (nbits w : Nat) : State := placeWord nbits w s

end Sys2Proof.Machine
end

