-- ==== Sys2Proof/Machine/Assembler.lean ====
section
/-! DEFINITION. The textual syntax of R71: a host program, one operation per line, and the written form of
a ROM entry. Text is a list of characters. Tokens are separated by spaces or tabs, and a hex digit is
taken in either case (DESIGN CHOICE, log entry 17). -/

namespace Sys2Proof.Machine

/-- A space or a tab. -/
def isBlank (c : Char) : Bool := c == ' ' || c == '\t'

/-- The tokens of a line; `cur` is the token being read, reversed. -/
def tokensFrom (cur : List Char) : List Char → List (List Char)
  | [] => if cur.isEmpty then [] else [cur.reverse]
  | c :: cs =>
    if isBlank c then
      if cur.isEmpty then tokensFrom [] cs else cur.reverse :: tokensFrom [] cs
    else tokensFrom (c :: cur) cs

/-- The tokens of a line, up to the comment (R71). -/
def tokens (line : List Char) : List (List Char) :=
  tokensFrom [] (line.takeWhile fun c => !(c == ';'))

/-- The value of a hex digit. -/
def hexDigit (c : Char) : Option Nat :=
  let n := c.toNat
  if 48 ≤ n ∧ n ≤ 57 then some (n - 48)
  else if 65 ≤ n ∧ n ≤ 70 then some (n - 55)
  else if 97 ≤ n ∧ n ≤ 102 then some (n - 87)
  else none

/-- `byte ::= "0x" hexdigit hexdigit` (R71). -/
def hexByte (tok : List Char) : Option Byte :=
  match tok with
  | ['0', 'x', a, b] =>
    match hexDigit a, hexDigit b with
    | some h, some l => some (BitVec.ofNat 8 (16 * h + l))
    | _, _ => none
  | _ => none

/-- An operation without an operand (R71). -/
def plainOperation (tok : List Char) : Option Instr :=
  if tok = "HARDWARE_RESET".toList then some .hardwareReset
  else if tok = "WAIT_UNTIL_READY".toList then some .waitUntilReady
  else if tok = "INITIALIZE".toList then some .initializeOp
  else if tok = "REFRESH_AND_SLEEP".toList then some .refreshAndSleep
  else none

/-- An operation with a byte operand (R71). -/
def byteOperation (tok : List Char) (v : Byte) : Option Instr :=
  if tok = "TRANSMIT_BYTE".toList then some (.transmitByte v)
  else if tok = "SEND_COMMAND".toList then some (.sendCommand v)
  else if tok = "SEND_DATA".toList then some (.sendData v)
  else none

/-- A line of a program: no operation, one operation, or none at all where it is not of the syntax. -/
def parseLine (line : List Char) : Option (Option Instr) :=
  match tokens line with
  | [] => some none
  | [op] => (plainOperation op).map some
  | [op, b] => (hexByte b).bind fun v => (byteOperation op v).map some
  | _ => none

/-- The request word of a host operation, from the container it is encoded in (R62, R71). -/
def requestOf (i : Instr) : RequestWord := (encode i).extractLsb' 0 11

/-- The program of a list of lines: the request words in order (R71). -/
def assemble : List (List Char) → Option (List RequestWord)
  | [] => some []
  | line :: rest =>
    match parseLine line, assemble rest with
    | some none, some ws => some ws
    | some (some i), some ws => some (requestOf i :: ws)
    | _, _ => none

/-- The name of a delay selector as R71 writes it. -/
def selectorNamed (tok : List Char) : Option DelaySel :=
  if tok = "RST_PRE".toList then some .rstPre
  else if tok = "RST_LOW".toList then some .rstLow
  else if tok = "RST_POST".toList then some .rstPost
  else if tok = "PON".toList then some .pon
  else if tok = "REFRESH".toList then some .refresh
  else none

/-- The name of a panel state in an annotation (R71, R65). -/
def annotNamed (tok : List Char) : Option Annot :=
  if tok = "RESETTING".toList then some .resetting
  else if tok = "CONFIGURING".toList then some .configuring
  else if tok = "READY".toList then some .ready
  else if tok = "SLEEPING".toList then some .sleeping
  else none

/-- A micro-operation and its operand (R71). -/
def microNamed (ts : List (List Char)) : Option MicroOp :=
  match ts with
  | [k] =>
    if k = "uWRDY".toList then some .wrdy else if k = "uEND".toList then some .done else none
  | [k, v] =>
    if k = "uCMD".toList then (hexByte v).map .cmd
    else if k = "uDAT".toList then (hexByte v).map .dat
    else if k = "uDLY".toList then (selectorNamed v).map .dly
    else if k = "uRST".toList then
      if v = ['H'] then some (.rst .H) else if v = ['L'] then some (.rst .L) else none
    else none
  | _ => none

/-- The written form of a ROM entry, "with a state annotation as `-> READY`" (R71). -/
def parseEntry (line : List Char) : Option RomEntry :=
  match tokens line with
  | [k, v, ['-', '>'], p] =>
    (microNamed [k, v]).bind fun o => (annotNamed p).map fun a => ⟨a, o⟩
  | [k, ['-', '>'], p] => (microNamed [k]).bind fun o => (annotNamed p).map fun a => ⟨a, o⟩
  | ts => (microNamed ts).map fun o => ⟨.keep, o⟩

end Sys2Proof.Machine
end

