-- ==== Sys2Proof/Machine/Trace.lean ====
section
/-! DEFINITION. The trace macros of R19 and the traces of the operations (R72): what the spec says the
core emits, written apart from the machine that emits it. -/

namespace Sys2Proof.Machine

/-- The three writes of one bit: data, clock high, clock low (R19). -/
def bitEvents (b : Bool) : List Event := [.w .din (lvl b), .w .sck .H, .w .sck .L]

/-- The bits of a byte from the most significant to the least (R43). -/
def bitsMsbFirst (v : Byte) : List Bool := [7, 6, 5, 4, 3, 2, 1, 0].map fun i => v.getLsbD i

/-- `X(v)`: the trace of TRANSMIT_BYTE (R19, R80). -/
def traceX (v : Byte) : List Event :=
  [.w .cs .L] ++ (bitsMsbFirst v).flatMap bitEvents ++ [.w .cs .H]

/-- `C(v)` or `D(v)`: the trace of a frame (R19, R92). -/
def traceFrame (c : Config) (m : FrameMode) (v : Byte) : List Event :=
  .w .dc (dcLevel c m) :: traceX v

/-- `TXN(c; d1, ..., dn)`: a command frame and its data frames (R72). -/
def traceTxn (c : Config) (code : Byte) (data : List Byte) : List Event :=
  traceFrame c .cmd code ++ data.flatMap (traceFrame c .dat)

/-- The trace of HARDWARE_RESET (R104). -/
def traceReset (c : Config) : List Event :=
  [.w .rst .H, .t c.nRstPre, .w .rst .L, .t c.nRstLow, .w .rst .H, .t c.nRstPost]

/-- `(S(L) T(N_POLL))^j`: `j` samples that see busy, each with its wait (R101). -/
def tracePolls (c : Config) : Nat → List Event
  | 0 => []
  | j + 1 => [.s .L, .t c.nPoll] ++ tracePolls c j

/-- The trace of a busy wait that sees busy `j` times and then ready (R106). -/
def traceWait (c : Config) (j : Nat) : List Event := tracePolls c j ++ [.s .H, .t c.nPoll]

/-- INITIALIZE up to its busy wait (R123, first three lines). -/
def traceInitHead (c : Config) : List Event :=
  traceReset c ++ traceTxn c 0x01 [0x07, 0x07, 0x3F, 0x3F] ++ traceTxn c 0x04 [] ++ [.t c.nPon]

/-- INITIALIZE after its busy wait (R123). -/
def traceInitTail (c : Config) : List Event :=
  traceTxn c 0x00 [0x1F] ++ traceTxn c 0x61 [0x03, 0x20, 0x01, 0xE0] ++ traceTxn c 0x15 [0x00] ++
    traceTxn c 0x50 [0x10, 0x07] ++ traceTxn c 0x60 [0x22] ++ traceTxn c 0x13 []

/-- The trace of INITIALIZE with `j` samples that see busy (R123). -/
def traceInit (c : Config) (j : Nat) : List Event :=
  traceInitHead c ++ traceWait c j ++ traceInitTail c

/-- REFRESH_AND_SLEEP up to its busy wait (R129). -/
def traceRefreshHead (c : Config) : List Event :=
  traceTxn c 0x12 [] ++ [.t c.nRefresh] ++ traceTxn c 0x02 []

/-- REFRESH_AND_SLEEP after its busy wait (R129). -/
def traceRefreshTail (c : Config) : List Event := traceTxn c 0x07 [0xA5]

/-- The trace of REFRESH_AND_SLEEP with `j` samples that see busy (R129). -/
def traceRefresh (c : Config) (j : Nat) : List Event :=
  traceRefreshHead c ++ traceWait c j ++ traceRefreshTail c

/-- The three ROM listings, entry by entry (R108, R122, R128). The machine does not read this list: it
fetches the words of `rom`. -/
def romListing : List RomEntry :=
  [⟨.resetting, .rst .H⟩, ⟨.keep, .dly .rstPre⟩, ⟨.keep, .rst .L⟩, ⟨.keep, .dly .rstLow⟩,
    ⟨.keep, .rst .H⟩, ⟨.keep, .dly .rstPost⟩, ⟨.keep, .done⟩] ++
  [⟨.keep, .wrdy⟩, ⟨.keep, .done⟩] ++
  [⟨.resetting, .rst .H⟩, ⟨.keep, .dly .rstPre⟩, ⟨.keep, .rst .L⟩, ⟨.keep, .dly .rstLow⟩,
    ⟨.keep, .rst .H⟩, ⟨.configuring, .dly .rstPost⟩] ++
  [⟨.keep, .cmd 0x01⟩, ⟨.keep, .dat 0x07⟩, ⟨.keep, .dat 0x07⟩, ⟨.keep, .dat 0x3F⟩,
    ⟨.keep, .dat 0x3F⟩] ++
  [⟨.keep, .cmd 0x04⟩, ⟨.keep, .dly .pon⟩, ⟨.keep, .wrdy⟩] ++
  [⟨.keep, .cmd 0x00⟩, ⟨.keep, .dat 0x1F⟩] ++
  [⟨.keep, .cmd 0x61⟩, ⟨.keep, .dat 0x03⟩, ⟨.keep, .dat 0x20⟩, ⟨.keep, .dat 0x01⟩,
    ⟨.keep, .dat 0xE0⟩] ++
  [⟨.keep, .cmd 0x15⟩, ⟨.keep, .dat 0x00⟩] ++
  [⟨.keep, .cmd 0x50⟩, ⟨.keep, .dat 0x10⟩, ⟨.keep, .dat 0x07⟩] ++
  [⟨.keep, .cmd 0x60⟩, ⟨.keep, .dat 0x22⟩] ++
  [⟨.keep, .cmd 0x13⟩, ⟨.ready, .done⟩] ++
  [⟨.keep, .cmd 0x12⟩, ⟨.keep, .dly .refresh⟩, ⟨.keep, .cmd 0x02⟩, ⟨.keep, .wrdy⟩,
    ⟨.keep, .cmd 0x07⟩, ⟨.keep, .dat 0xA5⟩, ⟨.sleeping, .done⟩]

/-- A panel command: its row, its code, the data bytes that follow it and the ROM address of its command
frame (R60, R110 to R120). -/
structure PanelCommand where
  instr : Instr
  code : Byte
  data : List Byte
  addr : Nat

/-- The eleven panel commands the sequencer sends (R60), at their addresses (R110 to R120). -/
def panelCommands : List PanelCommand :=
  [⟨.powerSetting, 0x01, [0x07, 0x07, 0x3F, 0x3F], 15⟩, ⟨.powerOn, 0x04, [], 20⟩,
    ⟨.panelSetting, 0x00, [0x1F], 23⟩, ⟨.resolutionSetting, 0x61, [0x03, 0x20, 0x01, 0xE0], 25⟩,
    ⟨.cmd15, 0x15, [0x00], 30⟩, ⟨.vcomDataInterval, 0x50, [0x10, 0x07], 32⟩,
    ⟨.tconSetting, 0x60, [0x22], 35⟩, ⟨.startDataWrite, 0x13, [], 37⟩] ++
  [⟨.displayRefresh, 0x12, [], 39⟩, ⟨.powerOff, 0x02, [], 41⟩, ⟨.deepSleep, 0x07, [0xA5], 43⟩]

/-- Whether an event is a pin write (R17). -/
def isWrite : Event → Bool
  | .w _ _ => true
  | .s _ => false
  | .t _ => false

/-- Whether an event writes a given pin. -/
def writesPin (p : OutPin) : Event → Bool
  | .w q _ => decide (q = p)
  | .s _ => false
  | .t _ => false

/-- The levels written to a pin, in time order. -/
def levelsWritten (p : OutPin) : List Event → List Level
  | [] => []
  | .w q l :: es => if q = p then l :: levelsWritten p es else levelsWritten p es
  | .s _ :: es => levelsWritten p es
  | .t _ :: es => levelsWritten p es

/-- How many writes of a sequence change the level, from a level held before (R83). -/
def levelChanges (before : Level) : List Level → Nat
  | [] => 0
  | l :: ls => (if l = before then 0 else 1) + levelChanges l ls

end Sys2Proof.Machine
end

