-- ==== Sys2Proof/Machine/Monitor.lean ====
section
/-! DEFINITION. The wire monitor (R56): what a pin trace means to a receiver. It is not part of the core;
no step calls it. -/

namespace Sys2Proof.Machine

/-- A frame as a receiver sees it: the mode-select level at the first clock pulse of the window, none
when there was none, and the bits sampled, first bit first (R56). -/
structure WireFrame where
  mode : Option Level
  bits : List Bool
  deriving DecidableEq, Repr

/-- What the monitor keeps: the four levels, the bits of the window, and its mode (R56). -/
structure MonitorState where
  sck : Level
  din : Level
  dc : Level
  cs : Level
  acc : List Bool
  mode : Option Level
  deriving DecidableEq, Repr

/-- A window opens at the fall of chip-select (R56, first test). -/
def monitorOpen (m : MonitorState) : Event → MonitorState
  | .w .cs .L => if m.cs = .H then { m with acc := [], mode := none } else m
  | _ => m

/-- A bit is sampled at a rising clock edge inside a window, and the mode at the first (R56, second
test). -/
def monitorSample (m : MonitorState) : Event → MonitorState
  | .w .sck .H =>
    if m.sck = .L ∧ m.cs = .L then
      { m with acc := m.acc ++ [m.din.toBool], mode := some (m.mode.getD m.dc) }
    else m
  | _ => m

/-- A frame is emitted at the rise of chip-select (R56, third test). -/
def monitorEmit (m : MonitorState) : Event → List WireFrame
  | .w .cs .H => if m.cs = .L then [⟨m.mode, m.acc⟩] else []
  | _ => []

/-- The pin takes its level after the tests (R56). -/
def monitorLevel (m : MonitorState) : Event → MonitorState
  | .w .sck l => { m with sck := l }
  | .w .din l => { m with din := l }
  | .w .dc l => { m with dc := l }
  | .w .cs l => { m with cs := l }
  | .w .rst _ => m
  | .s _ => m
  | .t _ => m

/-- The monitor over a trace (R56). -/
def monitorFrom (m : MonitorState) : List Event → List WireFrame
  | [] => []
  | e :: es =>
    let k := monitorSample (monitorOpen m e) e
    monitorEmit k e ++ monitorFrom (monitorLevel k e) es

/-- `Monitor`, given the levels the pins hold before the trace (R56). The rule gives the bit list and the
mode no value before the first event, where they matter only to a trace that begins inside a window
(`cs0` = L): they start empty and none (DESIGN CHOICE, log entry 19). -/
def monitor (sck0 din0 dc0 cs0 : Level) (es : List Event) : List WireFrame :=
  monitorFrom ⟨sck0, din0, dc0, cs0, [], none⟩ es

/-- The value of a byte frame, first bit most significant (R56). -/
def WireFrame.value (f : WireFrame) : Nat := f.bits.foldl (fun n b => 2 * n + b.toNat) 0

/-- The byte frame of mode level `l` and value `v` (R56). -/
def byteFrame (l : Level) (v : Byte) : WireFrame := ⟨some l, bitsMsbFirst v⟩

/-- The frames of one transaction (R59). -/
def txnFrames (c : Config) (code : Byte) (data : List Byte) : List WireFrame :=
  byteFrame (dcLevel c .cmd) code :: data.map (byteFrame (dcLevel c .dat))

/-- The 21 frames of INITIALIZE in order (R124). -/
def initFrames (c : Config) : List WireFrame :=
  txnFrames c 0x01 [0x07, 0x07, 0x3F, 0x3F] ++ txnFrames c 0x04 [] ++ txnFrames c 0x00 [0x1F] ++
    txnFrames c 0x61 [0x03, 0x20, 0x01, 0xE0] ++ txnFrames c 0x15 [0x00] ++
    txnFrames c 0x50 [0x10, 0x07] ++ txnFrames c 0x60 [0x22] ++ txnFrames c 0x13 []

/-- The four frames of REFRESH_AND_SLEEP in order (R129). -/
def refreshFrames (c : Config) : List WireFrame :=
  txnFrames c 0x12 [] ++ txnFrames c 0x02 [] ++ txnFrames c 0x07 [0xA5]

end Sys2Proof.Machine
end

