-- ==== Sys2Proof/Safety.lean ====
section
/-! DEFINITION. Runs, the states a run can start from, and the invariant of the machine: the layers'
registers and the pins agree (R33 to R35), and no step of such a state faults. -/

namespace Sys2Proof.Machine

/-- `n` steps, stopping at the first fault or refusal. -/
def run : Nat → State → Result
  | 0, s => .next s
  | n + 1, s =>
    match step s with
    | .next t => run n t
    | .fault r => .fault r
    | .refused r => .refused r

/-- A result with its next state changed by `f`; a fault or a refusal stays. -/
def mapState (f : State → State) : Result → Result
  | .next t => .next (f t)
  | .fault r => .fault r
  | .refused r => .refused r

/-- The next step takes a sample of `BUSY`: the one place where the level of the busy line can affect the
core (R135). -/
def samplesNext (s : State) : Bool :=
  microDue s && decide (s.wstate = .sample) &&
    match romEntry s.upc.toNat with
    | none => false
    | some e => decide (e.op = .wrdy)

/-- The registers that R38 gives a value after the core's own reset have it, and nothing has been
emitted; every other register, the parameters and the environment are arbitrary (R38, R146). -/
def afterReset (s : State) : Bool :=
  decide (s.cs = .H) && decide (s.sck = .L) && decide (s.bitcnt = 0) && decide (s.tstate = .idle) &&
    decide (s.fstate = .idle) && decide (s.op = .idle) && decide (s.pstate = .uninit) &&
    decide (s.status = 0) && decide (s.trace = [])

/-- The phases in which chip-select is low (R33). -/
def inWindow : TState → Bool
  | .setd | .ckh | .ckl | .csh => true
  | .idle | .csl => false

/-- `CS = L` exactly in the window (R33). -/
def csOk (s : State) : Bool := decide (s.cs = .L) == inWindow s.tstate

/-- `SCK = H` exactly between the two halves of a pulse (R35, R77, R78). -/
def sckOk (s : State) : Bool := decide (s.sck = .H) == decide (s.tstate = .ckl)

/-- `BITCNT` fits the phase (R23, R24). -/
def countOk (s : State) : Bool :=
  match s.tstate with
  | .idle | .csh => decide (s.bitcnt = 0)
  | .csl => decide (s.bitcnt = 8)
  | .setd | .ckh | .ckl => decide (s.bitcnt ≠ 0)

/-- The data line holds the current bit across both clock edges (R84). -/
def dinOk (s : State) : Bool :=
  match s.tstate with
  | .ckh | .ckl => decide (s.din = lvl (s.sr.getLsbD 7))
  | .idle | .csl | .setd | .csh => true

/-- While the framer waits for the transport, the mode-select line holds the frame's level (R34), and
the shift register the frame's byte, shifted as often as bits have been sent (R87). -/
def frameOk (s : State) : Bool :=
  match s.fstate with
  | .xmit =>
    decide (s.dc = dcLevel s.cfg s.fmode) && decide (s.sr = s.arg <<< (8 - s.bitcnt.val))
  | .idle | .dc => true

/-- A framed byte in progress: the mode-select write is due, or the transport is busy with it (R25). -/
def framePhase (s : State) : Bool :=
  (decide (s.fstate = .dc) && decide (s.tstate = .idle)) ||
    (decide (s.fstate = .xmit) && decide (s.tstate ≠ .idle))

/-- Neither the transport nor the framer has a step (R39). -/
def layersIdle (s : State) : Bool := decide (s.tstate = .idle) && decide (s.fstate = .idle)

/-- The micro-operation at `UPC` belongs to the operation in progress, is no `uEND`, and the lower
layers do what it asks (R27, R39). -/
def microOk (s : State) : Bool :=
  decide (programOf s.upc.toNat = s.op) &&
    match romEntry s.upc.toNat with
    | none => false
    | some e =>
      match e.op with
      | .cmd v => framePhase s && decide (s.fmode = .cmd) && decide (s.arg = v)
      | .dat v => framePhase s && decide (s.fmode = .dat) && decide (s.arg = v)
      | .rst _ | .dly _ | .wrdy => layersIdle s
      | .done => false

/-- What each operation in progress says of the layers (R26, R39). -/
def layersOk (s : State) : Bool :=
  match s.op with
  | .idle => layersIdle s
  | .transmitByte => decide (s.fstate = .idle) && decide (s.tstate ≠ .idle)
  | .sendCommand => framePhase s && decide (s.fmode = .cmd)
  | .sendData => framePhase s && decide (s.fmode = .dat)
  | .hardwareReset | .waitUntilReady | .initializeOp | .refreshAndSleep => microOk s

/-- What `PSTATE` may be while an operation is at an address (R109): `RESETTING` from the first write of
its reset pulse, `CONFIGURING` from the end of INITIALIZE's third reset wait. -/
def pstateFits (o : Op) (a : Nat) (q : PanelState) : Bool :=
  match o with
  | .hardwareReset => decide (a = 0) || decide (q = .resetting)
  | .initializeOp =>
    decide (a = 9) || (decide (a ≤ 14) && decide (q = .resetting)) ||
      (decide (15 ≤ a) && decide (q = .configuring))
  | .idle | .transmitByte | .sendCommand | .sendData | .waitUntilReady | .refreshAndSleep => true

/-- `PSTATE` fits the place in the program (R109). -/
def pstateOk (s : State) : Bool := pstateFits s.op s.upc.toNat s.pstate

/-- `STATUS` is 0, or 1 where a timeout is configured (R30, R134). -/
def statusOk (s : State) : Bool :=
  decide (s.status = statusSuccess) ||
    (decide (s.status = statusTimeout) && decide (s.cfg.busyTimeout ≠ none))

/-- The invariant of the machine. -/
def machineInv (s : State) : Bool :=
  csOk s && sckOk s && countOk s && dinOk s && frameOk s && layersOk s && pstateOk s && statusOk s

/-- The host's program holds no reserved operation code: the program is well formed (U1, R68). -/
def programWf (s : State) : Bool := s.requests.all fun w => decide (decodeRequest w ≠ .reservedOp7)

end Sys2Proof.Machine
end

