-- ==== Sys2Proof/Certificates/Slice0/Obligations.lean ====
section
/-! DEFINITION. The statements for the provers, from the numbered rules of spec/. A next state is written as
an update of the state before, so each such statement says the result and the frame together: a field
that is not named is unchanged. -/

open Sys2Proof Sys2Proof.Machine

/-! ## Encodings -/

/-- Decoding the encoding of a well-formed instruction gives it back, in its own format, for every
operand value (R58, R60, R62 to R67, R69). -/
def Obligations.DecodeEncodeIsIdentity : Prop :=
  ∀ i : Instr, i.wf = true → decode i.format (encode i) = .ok i

/-- A ROM word that decodes is the encoding of what it decodes to: no two words have one meaning (R65). For
`uWRDY` and `uEND` this rests on the model's reading that they take no operand but 0 (log entry 9). -/
def Obligations.RomWordIsItsEntrysEncoding : Prop :=
  ∀ (w : MicroWord) (e : RomEntry), decodeEntry w = .ok e → encodeEntry e = w

/-- Every frame word is the encoding of what it decodes to, and decodes to a well-formed frame (R58, R69). -/
def Obligations.FrameWordIsItsFramesEncoding : Prop :=
  ∀ w : FrameWord, encode (decodeFrame w) = w.setWidth 16 ∧ (decodeFrame w).wf = true ∧
    (decodeFrame w).format = .frame

/-- The operation code names the operation; the byte operand is taken whole by codes 0 to 2 and ignored
by codes 3 to 6 (R62, R63, R64). -/
def Obligations.RequestDecodesByOperationCode : Prop :=
  ∀ arg : Byte,
    decodeRequest ((0 : BitVec 3) ++ arg) = .transmitByte arg ∧
    decodeRequest ((1 : BitVec 3) ++ arg) = .sendCommand arg ∧
    decodeRequest ((2 : BitVec 3) ++ arg) = .sendData arg ∧
    decodeRequest ((3 : BitVec 3) ++ arg) = .hardwareReset ∧
    decodeRequest ((4 : BitVec 3) ++ arg) = .waitUntilReady ∧
    decodeRequest ((5 : BitVec 3) ++ arg) = .initializeOp ∧
    decodeRequest ((6 : BitVec 3) ++ arg) = .refreshAndSleep ∧
    decodeRequest ((7 : BitVec 3) ++ arg) = .reservedOp7

/-- Exactly the encodings R65 to R67 list decode; the reserved ones of R68 do not. That `uWRDY` and
`uEND` take no operand but 0 is the model's reading (log entry 9). -/
def Obligations.ReservedRomWordsAreRejected : Prop :=
  ∀ (p k : BitVec 3) (v : Byte),
    (∃ e, decodeEntry ((p ++ k) ++ v) = .ok e) ↔
      p.toNat ≤ 4 ∧
        (k = 0 ∨ k = 1 ∨ (k = 2 ∧ v.toNat ≤ 1) ∨ (k = 3 ∧ v.toNat ≤ 4) ∨ (k = 4 ∧ v = 0) ∨
          (k = 5 ∧ v = 0))

/-- A word of each family, written out bit by bit from R58, R62 and R65, decodes to the instruction it
stands for (vectors V23 to V25). -/
def Obligations.WrittenOutWordsDecode : Prop :=
  decode .request 0b0000000010100101 = .ok (.transmitByte 0xA5) ∧
  decode .request 0b0000000100010011 = .ok (.sendCommand 0x13) ∧
  decode .request 0b0000001111111111 = .ok .hardwareReset ∧
  decode .micro 0b0000101000000001 = .ok (.uRst .resetting .H) ∧
  decode .micro 0b0001001100000010 = .ok (.uDly .configuring .rstPost) ∧
  decode .micro 0b0010010100000000 = .ok (.uEnd .sleeping) ∧
  decode .frame 0b0000000001100001 = .ok .resolutionSetting ∧
  decode .frame 0b0000000110100101 = .ok (.dataFrame 0xA5) ∧
  decode .frame 0b0000000000001000 = .ok (.commandFrameOther 0x08)

/-- The sequence ROM holds the 46 entries of the three listings at their addresses, each as its encoded
word, and no other (R42, R108, R122, R128). -/
def Obligations.RomHoldsTheListings : Prop :=
  (List.range 46).map romEntry = romListing.map some ∧ rom = romListing.map encodeEntry ∧
  ∀ a : Nat, 46 ≤ a → romEntry a = none

/-- The seven example lines of R71 assemble to the words the rule gives, comments and empty lines to
nothing. -/
def Obligations.WrittenProgramAssembles : Prop :=
  assemble
      (["SEND_COMMAND 0x13", "SEND_DATA 0xA5 ; a data byte", "", "TRANSMIT_BYTE 0x80",
        "HARDWARE_RESET", "WAIT_UNTIL_READY", "; nothing", "INITIALIZE",
        "REFRESH_AND_SLEEP"].map String.toList) =
    some [0x113, 0x2A5, 0x080, 0x300, 0x400, 0x500, 0x600]

/-! ## The step -/

/-- A step runs what its layer has due, innermost first (R39): the transport; the frame word
`{FMODE, ARG}` decoded; the ROM word at `UPC` decoded; for an idle core the host's next request decoded,
taken off the program. -/
def Obligations.StepRunsTheDecodedInstruction : Prop :=
  (∀ (s : State) (w : RequestWord) (ws : List RequestWord),
    s.op = .idle → s.requests = w :: ws →
      step s = exec (decodeRequest w) { s with requests := ws }) ∧
  (∀ s : State, s.op ≠ .idle → s.tstate ≠ .idle → step s = transportStep s) ∧
  (∀ s : State, s.op ≠ .idle → s.tstate = .idle → s.fstate = .dc →
    step s = exec (decodeFrame (frameWord s.fmode s.arg)) s) ∧
  (∀ (s : State) (w : MicroWord) (i : Instr),
    isSequencerOp s.op = true → s.tstate = .idle → s.fstate ≠ .dc →
    rom[s.upc.toNat]? = some w → decodeMicro w = .ok i → step s = exec i s)

/-- An idle core with no request presented stays as it is: it "waits for a request" (R39). That waiting
is a step that changes nothing is the model's choice (log entry 3). -/
def Obligations.IdleCoreWaits : Prop :=
  ∀ s : State, s.op = .idle → s.requests = [] → step s = .next s

/-- The transport's steps before the last, with their whole effect (R75 to R78). -/
def Obligations.TransportStepsOfAByte : Prop :=
  ∀ s : State, s.op ≠ .idle →
    (s.tstate = .csl →
      step s = .next { s with cs := .L, tstate := .setd, trace := s.trace ++ [.w .cs .L] }) ∧
    (s.tstate = .setd →
      step s = .next
        { s with
          din := if s.sr.getLsbD 7 then .H else .L
          tstate := .ckh
          trace := s.trace ++ [.w .din (if s.sr.getLsbD 7 then .H else .L)] }) ∧
    (s.tstate = .ckh →
      step s = .next { s with sck := .H, tstate := .ckl, trace := s.trace ++ [.w .sck .H] }) ∧
    (s.tstate = .ckl → ∀ n : Fin 9, n.val + 1 = s.bitcnt.val →
      step s = .next
        { s with
          sck := .L, sr := s.sr.extractLsb' 0 7 ++ (0 : BitVec 1), bitcnt := n
          tstate := if n = 0 then .csh else .setd
          trace := s.trace ++ [.w .sck .L] })

/-- The step that releases chip-select returns: the framer goes idle, a byte operation is over, and
otherwise the micro-operation at `UPC` completes in the same step (R79). -/
def Obligations.TransportReturn : Prop :=
  ∀ s : State, s.tstate = .csh →
    ((s.op = .transmitByte ∨ s.op = .sendCommand ∨ s.op = .sendData) →
      step s = .next
        { s with
          cs := .H, tstate := .idle, op := .idle
          fstate := if s.fstate = .xmit then .idle else s.fstate
          trace := s.trace ++ [.w .cs .H] }) ∧
    ((s.op = .hardwareReset ∨ s.op = .waitUntilReady ∨ s.op = .initializeOp ∨
        s.op = .refreshAndSleep) →
      step s = complete
        { s with
          cs := .H, tstate := .idle
          fstate := if s.fstate = .xmit then .idle else s.fstate
          trace := s.trace ++ [.w .cs .H] })

/-- While an operation is in progress a step goes on and emits exactly one event (R39). -/
def Obligations.BusyStepEmitsOneEvent : Prop :=
  ∀ s : State, machineInv s = true → s.op ≠ .idle →
    ∃ (t : State) (e : Event), step s = .next t ∧ t.trace = s.trace ++ [e]

/-- A step of an idle core, the acceptance of a request, emits no event (R39); nor does waiting, which is
the model's step (log entry 3). -/
def Obligations.AcceptanceEmitsNothing : Prop :=
  ∀ s t : State, s.op = .idle → step s = .next t → t.trace = s.trace

/-! ## Host requests -/

/-- TRANSMIT_BYTE is accepted by an idle core: the byte is loaded and the transport started (R73, R74). -/
def Obligations.TransmitByteAccepted : Prop :=
  ∀ (v : Byte) (s : State), s.op = .idle →
    exec (.transmitByte v) s =
      .next { s with sr := v, bitcnt := 8, tstate := .csl, op := .transmitByte }

/-- SEND_COMMAND and SEND_DATA are accepted by an idle core: the framer is armed (R88, R89). -/
def Obligations.FramedRequestsAccepted : Prop :=
  ∀ (v : Byte) (s : State), s.op = .idle →
    exec (.sendCommand v) s =
      .next { s with op := .sendCommand, arg := v, fmode := .cmd, fstate := .dc } ∧
    exec (.sendData v) s =
      .next { s with op := .sendData, arg := v, fmode := .dat, fstate := .dc }

/-- The sequencer operations are accepted by an idle core: each enters its program (R96, R103, R105,
R121, R127, with the entries at 0, 7, 9 and 39 of R108, R122, R128). -/
def Obligations.SequencerRequestsAccepted : Prop :=
  ∀ s : State, s.op = .idle →
    exec .hardwareReset s = .next { s with op := .hardwareReset, upc := 0 } ∧
    exec .waitUntilReady s =
      .next { s with op := .waitUntilReady, upc := 7, wstate := .sample, pollcnt := 0 } ∧
    exec .initializeOp s = .next { s with op := .initializeOp, upc := 9 } ∧
    exec .refreshAndSleep s =
      .next
        { s with op := .refreshAndSleep, upc := 39, arg := 0x12, fmode := .cmd, fstate := .dc }

/-- A request that arrives while an operation is in progress is held: it changes nothing, and the step
leaves the host's program as it is (R26, R136, R150). -/
def Obligations.RequestIsHeldWhileBusy : Prop :=
  (∀ (v : Byte) (s : State), s.op ≠ .idle →
    ∀ i ∈ [Instr.transmitByte v, .sendCommand v, .sendData v, .hardwareReset, .waitUntilReady,
      .initializeOp, .refreshAndSleep], exec i s = .next s) ∧
  (∀ s t : State, s.op ≠ .idle → step s = .next t → t.requests = s.requests)

/-- The reserved operation code 7 is refused, whatever its low bits, whether it is run or presented to an
idle core (R68, U1). -/
def Obligations.ReservedOperationIsRefused : Prop :=
  (∀ s : State, exec .reservedOp7 s = .refused .reservedOperationCode) ∧
  (∀ (arg : Byte) (ws : List RequestWord) (s : State),
    s.op = .idle → s.requests = ((7 : BitVec 3) ++ arg) :: ws →
      step s = .refused .reservedOperationCode)

/-! ## Frames -/

/-- The framer's step: the mode-select write and the start of the transmission of `ARG` (R90). -/
def Obligations.FramerStep : Prop :=
  ∀ s : State, s.op ≠ .idle → s.tstate = .idle → s.fstate = .dc →
    step s = .next
      { s with
        dc := if s.fmode = .cmd then s.cfg.dcCmd else s.cfg.dcCmd.other
        sr := s.arg, bitcnt := 8, tstate := .csl, fstate := .xmit
        trace :=
          s.trace ++ [.w .dc (if s.fmode = .cmd then s.cfg.dcCmd else s.cfg.dcCmd.other)] }

/-- Each named command frame starts with the command level on the mode-select line and its code of R60
in the shift register; so does any other command frame, and a data frame with the data level (R58, R60,
R69, R90). -/
def Obligations.FramesStart : Prop :=
  ∀ s : State, s.tstate = .idle → s.fstate = .dc →
    (∀ p ∈ [(Instr.powerSetting, (0x01 : Byte)), (.powerOn, 0x04), (.panelSetting, 0x00),
        (.resolutionSetting, 0x61), (.cmd15, 0x15), (.vcomDataInterval, 0x50),
        (.tconSetting, 0x60), (.startDataWrite, 0x13), (.displayRefresh, 0x12),
        (.powerOff, 0x02), (.deepSleep, 0x07)],
      exec p.1 s = .next
        { s with
          dc := s.cfg.dcCmd, sr := p.2, bitcnt := 8, tstate := .csl, fstate := .xmit
          trace := s.trace ++ [.w .dc s.cfg.dcCmd] }) ∧
    (∀ b : Byte,
      exec (.commandFrameOther b) s = .next
        { s with
          dc := s.cfg.dcCmd, sr := b, bitcnt := 8, tstate := .csl, fstate := .xmit
          trace := s.trace ++ [.w .dc s.cfg.dcCmd] }) ∧
    (∀ b : Byte,
      exec (.dataFrame b) s = .next
        { s with
          dc := s.cfg.dcCmd.other, sr := b, bitcnt := 8, tstate := .csl, fstate := .xmit
          trace := s.trace ++ [.w .dc s.cfg.dcCmd.other] })

/-! ## Micro-operations -/

/-- Entering a micro-operation at an address of the ROM, by kind (R96, Enter). -/
def Obligations.EnterByKind : Prop :=
  ∀ (a : Nat) (e : RomEntry) (s : State), romEntry a = some e →
    enter a s = .next
      (match e.op with
      | .cmd v => { s with upc := BitVec.ofNat 6 a, arg := v, fmode := .cmd, fstate := .dc }
      | .dat v => { s with upc := BitVec.ofNat 6 a, arg := v, fmode := .dat, fstate := .dc }
      | .wrdy => { s with upc := BitVec.ofNat 6 a, wstate := .sample, pollcnt := 0 }
      | .rst _ => { s with upc := BitVec.ofNat 6 a }
      | .dly _ => { s with upc := BitVec.ofNat 6 a }
      | .done =>
        { s with
          upc := BitVec.ofNat 6 a, pstate := (annotState e.annot).getD s.pstate
          status := 0, op := .idle })

/-- Completing the micro-operation at `UPC` applies its annotation and enters the next address (R96,
Complete). -/
def Obligations.CompleteEntersTheNext : Prop :=
  ∀ (e : RomEntry) (s : State), romEntry s.upc.toNat = some e →
    complete s = enter (s.upc.toNat + 1) { s with pstate := (annotState e.annot).getD s.pstate }

/-- `uRST` and `uDLY`: one event each, then the annotation and the next entry (R99, R100). -/
def Obligations.ResetAndDelayMicroOps : Prop :=
  ∀ (p : Annot) (l : Level) (d : DelaySel) (e : RomEntry) (s : State),
    microDue s = true → romEntry (s.upc.toNat + 1) = some e →
    exec (.uRst p l) s = .next
      (startMicro e
        { s with
          rst := l, pstate := (annotState p).getD s.pstate
          upc := BitVec.ofNat 6 (s.upc.toNat + 1), trace := s.trace ++ [.w .rst l] }) ∧
    exec (.uDly p d) s = .next
      (startMicro e
        { s with
          pstate := (annotState p).getD s.pstate
          upc := BitVec.ofNat 6 (s.upc.toNat + 1)
          trace := s.trace ++ [.t (match d with
            | .rstPre => s.cfg.nRstPre
            | .rstLow => s.cfg.nRstLow
            | .rstPost => s.cfg.nRstPost
            | .pon => s.cfg.nPon
            | .refresh => s.cfg.nRefresh)] })

/-- `uWRDY` at a sample: ready ends the polling, busy polls again, and a configured timeout counts the
busy samples and gives up at the last (R101, R139). For a timeout of 0, to which R139 gives no
meaning, the third clause is the model's choice: it never gives up (log entry 6). -/
def Obligations.BusyWaitSample : Prop :=
  ∀ (p : Annot) (s : State), microDue s = true → s.wstate = .sample →
    (busyLevel s = .H →
      exec (.uWrdy p) s = .next
        { s with
          wstate := .final, busyIn := s.busyIn.tail, sampleNo := s.sampleNo + 1
          trace := s.trace ++ [.s .H] }) ∧
    (busyLevel s = .L → s.cfg.busyTimeout = none →
      exec (.uWrdy p) s = .next
        { s with
          wstate := .poll, busyIn := s.busyIn.tail, sampleNo := s.sampleNo + 1
          trace := s.trace ++ [.s .L] }) ∧
    (∀ n : Nat, busyLevel s = .L → s.cfg.busyTimeout = some n → s.pollcnt + 1 ≠ n →
      exec (.uWrdy p) s = .next
        { s with
          wstate := .poll, pollcnt := s.pollcnt + 1, busyIn := s.busyIn.tail
          sampleNo := s.sampleNo + 1, trace := s.trace ++ [.s .L] }) ∧
    (∀ n : Nat, busyLevel s = .L → s.cfg.busyTimeout = some n → s.pollcnt + 1 = n →
      exec (.uWrdy p) s = .next
        { s with
          pollcnt := n, status := 1, op := .idle, busyIn := s.busyIn.tail
          sampleNo := s.sampleNo + 1, trace := s.trace ++ [.s .L] })

/-- `uWRDY` at its waits: the poll wait goes back to sampling, the final wait completes the
micro-operation (R101). -/
def Obligations.BusyWaitDelays : Prop :=
  ∀ (p : Annot) (s : State), microDue s = true →
    (s.wstate = .poll →
      exec (.uWrdy p) s = .next
        { s with wstate := .sample, trace := s.trace ++ [.t s.cfg.nPoll] }) ∧
    (∀ e : RomEntry, s.wstate = .final → romEntry (s.upc.toNat + 1) = some e →
      exec (.uWrdy p) s = .next
        (startMicro e
          { s with
            pstate := (annotState p).getD s.pstate
            upc := BitVec.ofNat 6 (s.upc.toNat + 1), trace := s.trace ++ [.t s.cfg.nPoll] }))

/-- `uCMD` and `uDAT` arm the framer; `uEND` returns with `STATUS` 0 and emits nothing (R97, R98, R102).
That `exec` does this work of Enter in a step of its own is the model's reading (log entry 13). -/
def Obligations.FrameAndEndMicroOps : Prop :=
  ∀ (p : Annot) (v : Byte) (s : State), microDue s = true →
    exec (.uCmd p v) s = .next { s with arg := v, fmode := .cmd, fstate := .dc } ∧
    exec (.uDat p v) s = .next { s with arg := v, fmode := .dat, fstate := .dc } ∧
    exec (.uEnd p) s = .next
      { s with pstate := (annotState p).getD s.pstate, status := 0, op := .idle }

/-! ## What a step can and cannot change -/

/-- Each pin holds the level last written: a step that emits a pin write changes that pin alone, and no
other step changes a pin (R20, R46). -/
def Obligations.PinsFollowTheTrace : Prop :=
  ∀ s t : State, step s = .next t →
    (t.trace = s.trace ∧ ∀ p : OutPin, pinLevel t p = pinLevel s p) ∨
    (∃ e : Event, t.trace = s.trace ++ [e] ∧
      ∀ p : OutPin, pinLevel t p =
        match e with
        | .w q l => if q = p then l else pinLevel s p
        | .s _ => pinLevel s p
        | .t _ => pinLevel s p)

/-- No step depends on the level an output pin holds (R20). -/
def Obligations.OutputPinsAreNeverReadBack : Prop :=
  ∀ (s : State) (a b c d e : Level),
    mapState (fun t => { t with sck := .L, din := .L, dc := .L, cs := .L, rst := .L })
        (step { s with sck := a, din := b, dc := c, cs := d, rst := e }) =
      mapState (fun t => { t with sck := .L, din := .L, dc := .L, cs := .L, rst := .L }) (step s)

/-- The level of `BUSY` affects the core only at a sample inside `uWRDY` (R135, R31). -/
def Obligations.BusyIsIgnoredOutsideSamples : Prop :=
  ∀ (s : State) (ls : List Level) (n : Nat), samplesNext s = false →
    step { s with busyIn := ls, sampleNo := n } =
      mapState (fun t => { t with busyIn := ls, sampleNo := n }) (step s)

/-- `PSTATE` gates nothing: with another panel state the step is the same but for `PSTATE` itself
(R29, R132). -/
def Obligations.PanelStateGatesNothing : Prop :=
  ∀ (s : State) (q : PanelState),
    mapState (fun t => { t with pstate := .uninit }) (step { s with pstate := q }) =
      mapState (fun t => { t with pstate := .uninit }) (step s)

/-- The mode-select line does not change while a byte is being sent (R34). -/
def Obligations.ModeSelectIsStable : Prop :=
  ∀ s t : State, s.op ≠ .idle → s.tstate ≠ .idle → step s = .next t → t.dc = s.dc

/-- Only `uRST` changes the reset line (R99). -/
def Obligations.OnlyResetMicroOpDrivesReset : Prop :=
  ∀ s t : State, step s = .next t → t.rst ≠ s.rst →
    ∃ p : Annot, romEntry s.upc.toNat = some ⟨p, .rst t.rst⟩ ∧ isSequencerOp s.op = true ∧
      t.trace = s.trace ++ [.w .rst t.rst]

/-- `PSTATE` changes at five places and takes the state annotated there: at ROM addresses 0, 9 and 14
as they complete, and at the `uEND`s at 38 and 45, entered from 37 and 44 (R109). -/
def Obligations.PanelStateChangesAtFivePlaces : Prop :=
  ∀ s t : State, machineInv s = true → step s = .next t → t.pstate ≠ s.pstate →
    (s.upc.toNat, t.upc.toNat, t.pstate) ∈
      [(0, 1, PanelState.resetting), (9, 10, .resetting), (14, 15, .configuring),
        (37, 38, .ready), (44, 45, .sleeping)]

/-- `STATUS` changes only in the step that ends a sequencer operation; it then is 0, or 1 where a
timeout is configured (R30, R134). -/
def Obligations.StatusIsWrittenAtReturn : Prop :=
  ∀ s t : State, step s = .next t → t.status ≠ s.status →
    isSequencerOp s.op = true ∧ t.op = .idle ∧
      (t.status = 0 ∨ (t.status = 1 ∧ s.cfg.busyTimeout ≠ none))

/-- No step writes a parameter; a request is taken only from an idle core's program, in order; and a
sample uses up one draw, nothing else does (R32, R26, R21). -/
def Obligations.EnvironmentIsOnlyConsumed : Prop :=
  ∀ s t : State, step s = .next t →
    t.cfg = s.cfg ∧
    (t.requests = s.requests ∨ (s.op = .idle ∧ ∃ w, s.requests = w :: t.requests)) ∧
    (if samplesNext s = true then
        t.busyIn = s.busyIn.tail ∧ t.sampleNo = s.sampleNo + 1
      else t.busyIn = s.busyIn ∧ t.sampleNo = s.sampleNo)

/-! ## Invariants -/

/-- Every step keeps the invariant of the machine: chip-select is low exactly in the window (R33), the
clock is high exactly inside a pulse (R35), the mode-select level and the data level are right while a
frame is sent (R34, R84), the counters and phases of the layers agree (R39), and `PSTATE` and `STATUS`
are what R109 and R134 allow. -/
def Obligations.StepKeepsTheInvariant : Prop :=
  ∀ s t : State, machineInv s = true → step s = .next t → machineInv t = true

/-- The state after reset is a reset state and meets the invariant (R38, R146). -/
def Obligations.ResetMeetsTheInvariant : Prop :=
  afterReset State.reset = true ∧ machineInv State.reset = true

/-- Every state that the core's own reset may leave, whatever the unspecified registers hold, meets the
invariant (R38). -/
def Obligations.AfterResetMeetsTheInvariant : Prop :=
  ∀ s : State, afterReset s = true → machineInv s = true

/-- The block reset gives the registers of R38 their values, drops the operation in progress and leaves
the parameters and the environment (R146). What it keeps is the model's choice (log entry 15). -/
def Obligations.BlockResetAbandonsTheOperation : Prop :=
  ∀ s : State, afterReset (blockReset s) = true ∧ (blockReset s).cfg = s.cfg ∧
    (blockReset s).requests = s.requests ∧ (blockReset s).busyIn = s.busyIn

/-- A well-formed program never stops the machine: from a state of the invariant every number of steps
gives a next state, and the invariant holds there (R133: the core raises no exception). That an idle core
with no request has a next state, itself, is the model's choice: R39 gives it no step (log entry 3). -/
def Obligations.WellFormedProgramNeverStops : Prop :=
  ∀ (n : Nat) (s : State), machineInv s = true → programWf s = true →
    ∃ t : State, run n s = .next t ∧ machineInv t = true ∧ programWf t = true

/-- No step of the invariant faults, and only the reserved operation code is refused (R133, R68). -/
def Obligations.OnlyTheReservedCodeStops : Prop :=
  ∀ s : State, machineInv s = true →
    (∀ r : Fault, step s ≠ .fault r) ∧
    (∀ r : Refusal, step s = .refused r →
      s.op = .idle ∧ ∃ w ws, s.requests = w :: ws ∧ decodeRequest w = .reservedOp7)

/-- A transmission in progress is over in at most 26 steps (R86). -/
def Obligations.TransportIsIdleWithin26Steps : Prop :=
  ∀ s : State, machineInv s = true → s.tstate ≠ .idle →
    ∃ n ≤ 26, ∃ t : State, run n s = .next t ∧ t.tstate = .idle

/-! ## Whole operations -/

/-- TRANSMIT_BYTE `v` from acceptance to return: the trace is exactly `X(v)`, and the state after it is
that of R82 (R80, R82, R95). -/
def Obligations.TransmitByteRun : Prop :=
  ∀ (v : Byte) (ws : List RequestWord) (s : State),
    s.op = .idle → s.fstate = .idle → s.requests = requestWord 0 v :: ws →
    run 27 s = .next
      { s with
        requests := ws, cs := .H, sck := .L, din := lvl (v.getLsbD 0), sr := 0, bitcnt := 0
        tstate := .idle, trace := s.trace ++ traceX v }

/-- SEND_COMMAND `v` and SEND_DATA `v` from acceptance to return: the traces are exactly `C(v)` and
`D(v)`, and the state after is that of R94 (R92, R93, R94). -/
def Obligations.FramedByteRun : Prop :=
  ∀ (m : FrameMode) (v : Byte) (ws : List RequestWord) (s : State),
    s.op = .idle → s.tstate = .idle →
    s.requests = (match m with | .cmd => requestWord 1 v | .dat => requestWord 2 v) :: ws →
    run 28 s = .next
      { s with
        requests := ws, dc := dcLevel s.cfg m, cs := .H, sck := .L, din := lvl (v.getLsbD 0)
        arg := v, fmode := m, fstate := .idle, sr := 0, bitcnt := 0, tstate := .idle
        trace := s.trace ++ traceFrame s.cfg m v }

/-- HARDWARE_RESET from acceptance to return: six events, and only `RST`, `PSTATE`, `STATUS` and `UPC`
change (R103, R104, R147). -/
def Obligations.HardwareResetRun : Prop :=
  ∀ (ws : List RequestWord) (s : State),
    s.op = .idle → s.tstate = .idle → s.fstate = .idle → s.requests = requestWord 3 0 :: ws →
    run 7 s = .next
      { s with
        requests := ws, rst := .H, pstate := .resetting, status := 0, upc := 6
        trace := s.trace ++
          [.w .rst .H, .t s.cfg.nRstPre, .w .rst .L, .t s.cfg.nRstLow, .w .rst .H,
            .t s.cfg.nRstPost] }

/-- WAIT_UNTIL_READY when the panel shows busy at `j` samples and then ready: it returns with the trace
of R106, in the source hardware for every `j` (R105, R106). -/
def Obligations.WaitUntilReadyRun : Prop :=
  ∀ (j : Nat) (rest : List Level) (ws : List RequestWord) (s : State),
    s.op = .idle → s.tstate = .idle → s.fstate = .idle → s.cfg.busyTimeout = none →
    s.requests = requestWord 4 0 :: ws → s.busyIn = List.replicate j .L ++ .H :: rest →
    run (2 * j + 3) s = .next
      { s with
        requests := ws, busyIn := rest, sampleNo := s.sampleNo + (j + 1), wstate := .final
        pollcnt := 0, upc := 8, status := 0, trace := s.trace ++ traceWait s.cfg j }

/-- WAIT_UNTIL_READY while every sample sees busy: after any number of polls it still waits, nothing but
samples and waits has happened, and the host's next requests are not accepted (R107, U4). -/
def Obligations.WaitUntilReadyMayNeverReturn : Prop :=
  ∀ (j : Nat) (rest : List Level) (ws : List RequestWord) (s : State),
    s.op = .idle → s.tstate = .idle → s.fstate = .idle → s.cfg.busyTimeout = none →
    s.requests = requestWord 4 0 :: ws → s.busyIn = List.replicate j .L ++ rest →
    run (2 * j + 1) s = .next
      { s with
        op := .waitUntilReady, requests := ws, busyIn := rest, sampleNo := s.sampleNo + j
        wstate := .sample, pollcnt := 0, upc := 7, trace := s.trace ++ tracePolls s.cfg j }

/-- With `BUSY_TIMEOUT` = `n + 1` the wait gives up at the `n + 1`-st busy sample: `STATUS` 1, the core
idle, `UPC` and `PSTATE` as they were, no pin written (R139). -/
def Obligations.WaitUntilReadyTimesOut : Prop :=
  ∀ (n : Nat) (rest : List Level) (ws : List RequestWord) (s : State),
    s.op = .idle → s.tstate = .idle → s.fstate = .idle → s.cfg.busyTimeout = some (n + 1) →
    s.requests = requestWord 4 0 :: ws → s.busyIn = List.replicate (n + 1) .L ++ rest →
    run (2 * n + 2) s = .next
      { s with
        requests := ws, busyIn := rest, sampleNo := s.sampleNo + (n + 1), wstate := .sample
        pollcnt := n + 1, upc := 7, status := 1
        trace := s.trace ++ (tracePolls s.cfg n ++ [.s .L]) }

/-- INITIALIZE when the panel shows busy at `j` samples and then ready: `576 + 2j` events, exactly those
of R123, and the state after return is that of R125, in every panel state (R121, R123, R124, R125,
R132). -/
def Obligations.InitializeRun : Prop :=
  ∀ (j : Nat) (rest : List Level) (ws : List RequestWord) (s : State),
    s.op = .idle → s.tstate = .idle → s.fstate = .idle → s.cfg.busyTimeout = none →
    s.requests = requestWord 5 0 :: ws → s.busyIn = List.replicate j .L ++ .H :: rest →
    run (2 * j + 577) s = .next
      { s with
        requests := ws, busyIn := rest, sampleNo := s.sampleNo + (j + 1), wstate := .final
        pollcnt := 0, upc := 38, status := 0, pstate := .ready
        rst := .H, cs := .H, sck := .L, dc := s.cfg.dcCmd, din := .H
        arg := 0x13, fmode := .cmd, fstate := .idle, sr := 0, bitcnt := 0, tstate := .idle
        trace := s.trace ++ traceInit s.cfg j }

/-- REFRESH_AND_SLEEP when the panel shows busy at `j` samples and then ready: `111 + 2j` events,
exactly those of R129, and the state after return, in every panel state; `RST` is unchanged (R127,
R129, R130, R132). -/
def Obligations.RefreshAndSleepRun : Prop :=
  ∀ (j : Nat) (rest : List Level) (ws : List RequestWord) (s : State),
    s.op = .idle → s.tstate = .idle → s.fstate = .idle → s.cfg.busyTimeout = none →
    s.requests = requestWord 6 0 :: ws → s.busyIn = List.replicate j .L ++ .H :: rest →
    run (2 * j + 112) s = .next
      { s with
        requests := ws, busyIn := rest, sampleNo := s.sampleNo + (j + 1), wstate := .final
        pollcnt := 0, upc := 45, status := 0, pstate := .sleeping
        cs := .H, sck := .L, dc := s.cfg.dcCmd.other, din := .H
        arg := 0xA5, fmode := .dat, fstate := .idle, sr := 0, bitcnt := 0, tstate := .idle
        trace := s.trace ++ traceRefresh s.cfg j }

/-- A timeout inside INITIALIZE leaves `PSTATE` at `CONFIGURING` and `UPC` at 22; inside
REFRESH_AND_SLEEP it leaves `PSTATE` as at acceptance and `UPC` at 42, after the power-off command and
before the deep-sleep command; in both `STATUS` is 1 and the core is idle (R139). -/
def Obligations.SequencesTimeOut : Prop :=
  ∀ (n : Nat) (rest : List Level) (ws : List RequestWord) (s : State),
    s.op = .idle → s.tstate = .idle → s.fstate = .idle → s.cfg.busyTimeout = some (n + 1) →
    s.busyIn = List.replicate (n + 1) .L ++ rest →
    (s.requests = requestWord 5 0 :: ws →
      ∃ t : State, run (2 * n + 171) s = .next t ∧ t.op = .idle ∧ t.status = 1 ∧
        t.pstate = .configuring ∧ t.upc = 22 ∧ t.requests = ws ∧
        t.trace = s.trace ++ (traceInitHead s.cfg ++ (tracePolls s.cfg n ++ [.s .L]))) ∧
    (s.requests = requestWord 6 0 :: ws →
      ∃ t : State, run (2 * n + 57) s = .next t ∧ t.op = .idle ∧ t.status = 1 ∧
        t.pstate = s.pstate ∧ t.upc = 42 ∧ t.requests = ws ∧
        t.trace = s.trace ++ (traceRefreshHead s.cfg ++ (tracePolls s.cfg n ++ [.s .L])))

/-- Each of the eleven panel commands has its code of R60 as its frame word, and from the ROM address of
its command frame the sequencer sends exactly that frame and its data bytes, and then is at the next
entry (R60, R110 to R120). -/
def Obligations.PanelCommandsSendTheirFrames : Prop :=
  ∀ p ∈ panelCommands,
    encode p.instr = p.code.setWidth 16 ∧ decodeFrame (frameWord .cmd p.code) = p.instr ∧
    ∀ s : State, machineInv s = true → s.upc.toNat = p.addr → s.op = programOf p.addr →
      s.fstate = .dc →
      step s = exec p.instr s ∧
      ∃ t : State, run (27 * (p.data.length + 1)) s = .next t ∧
        t.trace = s.trace ++ traceTxn s.cfg p.code p.data ∧
        t.upc.toNat = p.addr + p.data.length + 1

/-! ## What a receiver reads -/

/-- The monitor reads one byte frame of value `v` from the trace of a byte; its mode is the prior level
of `DC` for a raw byte, and the level of its kind for a framed one (R57, R43). -/
def Obligations.MonitorReadsTheByte : Prop :=
  ∀ (v : Byte) (din0 dc0 : Level) (c : Config),
    monitor .L din0 dc0 .H (traceX v) = [byteFrame dc0 v] ∧
    monitor .L din0 dc0 .H (traceFrame c .cmd v) = [byteFrame c.dcCmd v] ∧
    monitor .L din0 dc0 .H (traceFrame c .dat v) = [byteFrame c.dcCmd.other v] ∧
    (byteFrame dc0 v).value = v.toNat

/-- The monitor reads the 21 frames of INITIALIZE and the four of REFRESH_AND_SLEEP in order, however
long the busy wait takes (R124, R129). -/
def Obligations.MonitorReadsTheSequences : Prop :=
  ∀ (j : Nat) (din0 dc0 : Level) (c : Config),
    monitor .L din0 dc0 .H (traceInit c j) = initFrames c ∧ (initFrames c).length = 21 ∧
    monitor .L din0 dc0 .H (traceRefresh c j) = refreshFrames c

/-- The counts of the operations: 26 writes a byte, 27 a frame, `576 + 2j` events of which 570 writes
for INITIALIZE, `111 + 2j` of which 108 writes for REFRESH_AND_SLEEP (R81, R92, R124, R129, R161). -/
def Obligations.EventAndWriteCounts : Prop :=
  ∀ (v : Byte) (m : FrameMode) (c : Config) (j : Nat),
    (traceX v).length = 26 ∧ (traceX v).countP isWrite = 26 ∧
    (traceFrame c m v).length = 27 ∧ (traceFrame c m v).countP isWrite = 27 ∧
    (traceWait c j).length = 2 * j + 2 ∧ (traceWait c j).countP isWrite = 0 ∧
    (traceInit c j).length = 2 * j + 576 ∧ (traceInit c j).countP isWrite = 570 ∧
    (traceRefresh c j).length = 2 * j + 111 ∧ (traceRefresh c j).countP isWrite = 108

/-- Eight clock pulses, the data levels the bits of the byte from the most significant, one
chip-select window, and no other pin written (R84, R85, R43). -/
def Obligations.ClockAndDataOfAByte : Prop :=
  ∀ v : Byte,
    levelsWritten .din (traceX v) =
      [7, 6, 5, 4, 3, 2, 1, 0].map (fun i => if v.getLsbD i then Level.H else .L) ∧
    levelsWritten .sck (traceX v) = (List.replicate 8 [Level.H, .L]).flatten ∧
    levelsWritten .cs (traceX v) = [.L, .H] ∧ levelsWritten .dc (traceX v) = [] ∧
    levelsWritten .rst (traceX v) = []

/-- With `CS` high and `SCK` low before, a byte changes chip-select twice, the clock sixteen times and the
data line at most eight times (R83). -/
def Obligations.LevelChangesOfAByte : Prop :=
  ∀ (v : Byte) (d : Level),
    levelChanges .H (levelsWritten .cs (traceX v)) = 2 ∧
    levelChanges .L (levelsWritten .sck (traceX v)) = 16 ∧
    levelChanges d (levelsWritten .din (traceX v)) ≤ 8 ∧
    (levelChanges d (levelsWritten .din (traceX v)) = 0 ↔
      (v = 0x00 ∧ d = .L) ∨ (v = 0xFF ∧ d = .H))

/-! ## The host's ports -/

/-- The host reads `PSTATE` as its code at any time, and `STATUS` while the core is idle (R29, R30). That
the `STATUS` port gives nothing while the core is busy is the model's reading (log entry 20). -/
def Obligations.HostPortsReadTheRegisters : Prop :=
  ∀ s : State,
    (s.pstate = .uninit ↔ pstatePort s = 0) ∧ (s.pstate = .resetting ↔ pstatePort s = 1) ∧
    (s.pstate = .configuring ↔ pstatePort s = 2) ∧ (s.pstate = .ready ↔ pstatePort s = 3) ∧
    (s.pstate = .sleeping ↔ pstatePort s = 4) ∧
    (s.op = .idle → statusPort s = some s.status) ∧ (s.op ≠ .idle → statusPort s = none)
end

