-- ==== Sys2Proof/Laws/Decode.lean ====
section
/-! SUPPORT. The fields of an encoded word read back, format by format, and the container. -/

namespace Sys2Proof

/-! ## Fields -/

@[simp] theorem requestArg_requestWord (o : BitVec 3) (v : Byte) :
    requestArg (requestWord o v) = v :=
  BitVec.extractLsb'_append_eq_right (a := o)

@[simp] theorem requestOp_requestWord (o : BitVec 3) (v : Byte) :
    requestOp (requestWord o v) = o :=
  BitVec.extractLsb'_append_eq_left (b := v)

@[simp] theorem frameByte_frameWord (m : FrameMode) (b : Byte) : frameByte (frameWord m b) = b :=
  BitVec.extractLsb'_append_eq_right (a := m.bit)

@[simp] theorem frameMode_frameWord (m : FrameMode) (b : Byte) : frameMode (frameWord m b) = m := by
  have h : (frameWord m b).getLsbD 8 = m.bit.getLsbD 0 :=
    (BitVec.getLsbD_append (x := m.bit) (y := b)).trans (by simp)
  rw [frameMode, h]
  cases m <;> rfl

theorem entryWord_operand (p k : BitVec 3) (v : Byte) :
    ((p ++ k) ++ v : MicroWord).extractLsb' 0 8 = v :=
  BitVec.extractLsb'_append_eq_right (a := p ++ k)

theorem entryWord_high (x : BitVec 6) (v : Byte) :
    (x ++ v : MicroWord).extractLsb' 8 6 = x :=
  BitVec.extractLsb'_append_eq_left (b := v)

theorem entryWord_kind (p k : BitVec 3) (v : Byte) :
    ((p ++ k) ++ v : MicroWord).extractLsb' 8 3 = k := by
  have h : ((p ++ k) ++ v : MicroWord).extractLsb' 8 3 =
      (((p ++ k) ++ v : MicroWord).extractLsb' 8 6).extractLsb' 0 3 := by
    ext i hi; simp; omega
  rw [h, entryWord_high]
  exact BitVec.extractLsb'_append_eq_right (a := p)

theorem entryWord_annot (p k : BitVec 3) (v : Byte) :
    ((p ++ k) ++ v : MicroWord).extractLsb' 11 3 = p := by
  have h : ((p ++ k) ++ v : MicroWord).extractLsb' 11 3 =
      (((p ++ k) ++ v : MicroWord).extractLsb' 8 6).extractLsb' 3 3 := by
    ext i hi; simp [show 3 + i < 6 by omega]; congr 1; omega
  rw [h, entryWord_high]
  exact BitVec.extractLsb'_append_eq_left (b := k)

/-! ## Codes -/

@[simp] theorem decodeAnnot_code (p : Annot) : decodeAnnot p.code = .ok p := by cases p <;> rfl

@[simp] theorem decodeSel_code (d : DelaySel) : decodeSel d.code = .ok d := by cases d <;> rfl

@[simp] theorem decodeKind_code (o : MicroOp) : decodeKind o.kind o.operand = .ok o := by
  cases o with
  | cmd v => rfl
  | dat v => rfl
  | rst l => cases l <;> rfl
  | dly d => cases d <;> rfl
  | wrdy => rfl
  | done => rfl

/-! ## Words -/

theorem decodeEntry_word (p k : BitVec 3) (v : Byte) :
    decodeEntry ((p ++ k) ++ v) =
      match decodeAnnot p with
      | .error e => .error e
      | .ok a =>
        match decodeKind k v with
        | .error e => .error e
        | .ok o => .ok ⟨a, o⟩ := by
  simp only [decodeEntry, entryWord_annot, entryWord_kind, entryWord_operand] <;> rfl

@[simp] theorem decodeEntry_encodeEntry (e : RomEntry) : decodeEntry (encodeEntry e) = .ok e := by
  rw [encodeEntry, decodeEntry_word]; simp

@[simp] theorem decodeMicro_encodeEntry (e : RomEntry) :
    decodeMicro (encodeEntry e) = .ok e.toInstr := by
  simp [decodeMicro, Except.map]

@[simp] theorem decodeFrame_frameWord (m : FrameMode) (b : Byte) :
    decodeFrame (frameWord m b) = frameInstr m b := by
  simp [decodeFrame]

/-! ## The container -/

theorem decode_request_word (w : RequestWord) :
    decode .request (w.setWidth 16) = .ok (decodeRequest w) := by
  have h : (w.setWidth 16).toNat < 2 ^ 11 := by
    rw [BitVec.toNat_setWidth]; exact Nat.lt_of_le_of_lt (Nat.mod_le _ _) w.isLt
  have hw : (w.setWidth 16).extractLsb' 0 11 = w := by ext i hi; simp [hi]; omega
  simp only [decode, h, if_true, hw]

theorem decode_micro_word (w : MicroWord) : decode .micro (w.setWidth 16) = decodeMicro w := by
  have h : (w.setWidth 16).toNat < 2 ^ 14 := by
    rw [BitVec.toNat_setWidth]; exact Nat.lt_of_le_of_lt (Nat.mod_le _ _) w.isLt
  have hw : (w.setWidth 16).extractLsb' 0 14 = w := by ext i hi; simp [hi]; omega
  simp only [decode, h, if_true, hw]

theorem decode_frame_word (w : FrameWord) :
    decode .frame (w.setWidth 16) = .ok (decodeFrame w) := by
  have h : (w.setWidth 16).toNat < 2 ^ 9 := by
    rw [BitVec.toNat_setWidth]; exact Nat.lt_of_le_of_lt (Nat.mod_le _ _) w.isLt
  have hw : (w.setWidth 16).extractLsb' 0 9 = w := by ext i hi; simp [hi]; omega
  simp only [decode, h, if_true, hw]

end Sys2Proof
end

