-- ==== Sys2Proof/Laws/State.lean ====
section
/-! SUPPORT. One lemma per field per operation: what each named operation leaves in each field, so that no
later proof unfolds a record update. -/

namespace Sys2Proof.Machine

variable (s : State)

/-! ## pinWrite -/

@[simp] theorem pinWrite_cfg (p : OutPin) (l : Level) : (pinWrite p l s).cfg = s.cfg := by cases p <;> rfl
@[simp] theorem pinWrite_sr (p : OutPin) (l : Level) : (pinWrite p l s).sr = s.sr := by cases p <;> rfl
@[simp] theorem pinWrite_bitcnt (p : OutPin) (l : Level) : (pinWrite p l s).bitcnt = s.bitcnt := by cases p <;> rfl
@[simp] theorem pinWrite_tstate (p : OutPin) (l : Level) : (pinWrite p l s).tstate = s.tstate := by cases p <;> rfl
@[simp] theorem pinWrite_arg (p : OutPin) (l : Level) : (pinWrite p l s).arg = s.arg := by cases p <;> rfl
@[simp] theorem pinWrite_fmode (p : OutPin) (l : Level) : (pinWrite p l s).fmode = s.fmode := by cases p <;> rfl
@[simp] theorem pinWrite_fstate (p : OutPin) (l : Level) : (pinWrite p l s).fstate = s.fstate := by cases p <;> rfl
@[simp] theorem pinWrite_op (p : OutPin) (l : Level) : (pinWrite p l s).op = s.op := by cases p <;> rfl
@[simp] theorem pinWrite_upc (p : OutPin) (l : Level) : (pinWrite p l s).upc = s.upc := by cases p <;> rfl
@[simp] theorem pinWrite_wstate (p : OutPin) (l : Level) : (pinWrite p l s).wstate = s.wstate := by cases p <;> rfl
@[simp] theorem pinWrite_pollcnt (p : OutPin) (l : Level) : (pinWrite p l s).pollcnt = s.pollcnt := by cases p <;> rfl
@[simp] theorem pinWrite_pstate (p : OutPin) (l : Level) : (pinWrite p l s).pstate = s.pstate := by cases p <;> rfl
@[simp] theorem pinWrite_status (p : OutPin) (l : Level) : (pinWrite p l s).status = s.status := by cases p <;> rfl
@[simp] theorem pinWrite_requests (p : OutPin) (l : Level) : (pinWrite p l s).requests = s.requests := by cases p <;> rfl
@[simp] theorem pinWrite_busyIn (p : OutPin) (l : Level) : (pinWrite p l s).busyIn = s.busyIn := by cases p <;> rfl
@[simp] theorem pinWrite_sampleNo (p : OutPin) (l : Level) : (pinWrite p l s).sampleNo = s.sampleNo := by cases p <;> rfl
@[simp] theorem pinWrite_trace (p : OutPin) (l : Level) : (pinWrite p l s).trace = s.trace ++ [.w p l] := by cases p <;> rfl

/-! ## pinRead -/

@[simp] theorem pinRead_cfg : (pinRead s).cfg = s.cfg := rfl
@[simp] theorem pinRead_sck : (pinRead s).sck = s.sck := rfl
@[simp] theorem pinRead_din : (pinRead s).din = s.din := rfl
@[simp] theorem pinRead_dc : (pinRead s).dc = s.dc := rfl
@[simp] theorem pinRead_cs : (pinRead s).cs = s.cs := rfl
@[simp] theorem pinRead_rst : (pinRead s).rst = s.rst := rfl
@[simp] theorem pinRead_sr : (pinRead s).sr = s.sr := rfl
@[simp] theorem pinRead_bitcnt : (pinRead s).bitcnt = s.bitcnt := rfl
@[simp] theorem pinRead_tstate : (pinRead s).tstate = s.tstate := rfl
@[simp] theorem pinRead_arg : (pinRead s).arg = s.arg := rfl
@[simp] theorem pinRead_fmode : (pinRead s).fmode = s.fmode := rfl
@[simp] theorem pinRead_fstate : (pinRead s).fstate = s.fstate := rfl
@[simp] theorem pinRead_op : (pinRead s).op = s.op := rfl
@[simp] theorem pinRead_upc : (pinRead s).upc = s.upc := rfl
@[simp] theorem pinRead_wstate : (pinRead s).wstate = s.wstate := rfl
@[simp] theorem pinRead_pollcnt : (pinRead s).pollcnt = s.pollcnt := rfl
@[simp] theorem pinRead_pstate : (pinRead s).pstate = s.pstate := rfl
@[simp] theorem pinRead_status : (pinRead s).status = s.status := rfl
@[simp] theorem pinRead_requests : (pinRead s).requests = s.requests := rfl
@[simp] theorem pinRead_busyIn : (pinRead s).busyIn = s.busyIn.tail := rfl
@[simp] theorem pinRead_sampleNo : (pinRead s).sampleNo = s.sampleNo + 1 := rfl
@[simp] theorem pinRead_trace : (pinRead s).trace = s.trace ++ [.s (busyLevel s)] := rfl

/-! ## delay -/

@[simp] theorem delay_cfg (n : Nat) : (delay n s).cfg = s.cfg := rfl
@[simp] theorem delay_sck (n : Nat) : (delay n s).sck = s.sck := rfl
@[simp] theorem delay_din (n : Nat) : (delay n s).din = s.din := rfl
@[simp] theorem delay_dc (n : Nat) : (delay n s).dc = s.dc := rfl
@[simp] theorem delay_cs (n : Nat) : (delay n s).cs = s.cs := rfl
@[simp] theorem delay_rst (n : Nat) : (delay n s).rst = s.rst := rfl
@[simp] theorem delay_sr (n : Nat) : (delay n s).sr = s.sr := rfl
@[simp] theorem delay_bitcnt (n : Nat) : (delay n s).bitcnt = s.bitcnt := rfl
@[simp] theorem delay_tstate (n : Nat) : (delay n s).tstate = s.tstate := rfl
@[simp] theorem delay_arg (n : Nat) : (delay n s).arg = s.arg := rfl
@[simp] theorem delay_fmode (n : Nat) : (delay n s).fmode = s.fmode := rfl
@[simp] theorem delay_fstate (n : Nat) : (delay n s).fstate = s.fstate := rfl
@[simp] theorem delay_op (n : Nat) : (delay n s).op = s.op := rfl
@[simp] theorem delay_upc (n : Nat) : (delay n s).upc = s.upc := rfl
@[simp] theorem delay_wstate (n : Nat) : (delay n s).wstate = s.wstate := rfl
@[simp] theorem delay_pollcnt (n : Nat) : (delay n s).pollcnt = s.pollcnt := rfl
@[simp] theorem delay_pstate (n : Nat) : (delay n s).pstate = s.pstate := rfl
@[simp] theorem delay_status (n : Nat) : (delay n s).status = s.status := rfl
@[simp] theorem delay_requests (n : Nat) : (delay n s).requests = s.requests := rfl
@[simp] theorem delay_busyIn (n : Nat) : (delay n s).busyIn = s.busyIn := rfl
@[simp] theorem delay_sampleNo (n : Nat) : (delay n s).sampleNo = s.sampleNo := rfl
@[simp] theorem delay_trace (n : Nat) : (delay n s).trace = s.trace ++ [.t n] := rfl

/-! ## loadByte -/

@[simp] theorem loadByte_cfg (v : Byte) : (loadByte v s).cfg = s.cfg := rfl
@[simp] theorem loadByte_sck (v : Byte) : (loadByte v s).sck = s.sck := rfl
@[simp] theorem loadByte_din (v : Byte) : (loadByte v s).din = s.din := rfl
@[simp] theorem loadByte_dc (v : Byte) : (loadByte v s).dc = s.dc := rfl
@[simp] theorem loadByte_cs (v : Byte) : (loadByte v s).cs = s.cs := rfl
@[simp] theorem loadByte_rst (v : Byte) : (loadByte v s).rst = s.rst := rfl
@[simp] theorem loadByte_sr (v : Byte) : (loadByte v s).sr = v := rfl
@[simp] theorem loadByte_bitcnt (v : Byte) : (loadByte v s).bitcnt = 8 := rfl
@[simp] theorem loadByte_tstate (v : Byte) : (loadByte v s).tstate = .csl := rfl
@[simp] theorem loadByte_arg (v : Byte) : (loadByte v s).arg = s.arg := rfl
@[simp] theorem loadByte_fmode (v : Byte) : (loadByte v s).fmode = s.fmode := rfl
@[simp] theorem loadByte_fstate (v : Byte) : (loadByte v s).fstate = s.fstate := rfl
@[simp] theorem loadByte_op (v : Byte) : (loadByte v s).op = s.op := rfl
@[simp] theorem loadByte_upc (v : Byte) : (loadByte v s).upc = s.upc := rfl
@[simp] theorem loadByte_wstate (v : Byte) : (loadByte v s).wstate = s.wstate := rfl
@[simp] theorem loadByte_pollcnt (v : Byte) : (loadByte v s).pollcnt = s.pollcnt := rfl
@[simp] theorem loadByte_pstate (v : Byte) : (loadByte v s).pstate = s.pstate := rfl
@[simp] theorem loadByte_status (v : Byte) : (loadByte v s).status = s.status := rfl
@[simp] theorem loadByte_requests (v : Byte) : (loadByte v s).requests = s.requests := rfl
@[simp] theorem loadByte_busyIn (v : Byte) : (loadByte v s).busyIn = s.busyIn := rfl
@[simp] theorem loadByte_sampleNo (v : Byte) : (loadByte v s).sampleNo = s.sampleNo := rfl
@[simp] theorem loadByte_trace (v : Byte) : (loadByte v s).trace = s.trace := rfl

/-! ## armFrame -/

@[simp] theorem armFrame_cfg (m : FrameMode) (v : Byte) : (armFrame m v s).cfg = s.cfg := rfl
@[simp] theorem armFrame_sck (m : FrameMode) (v : Byte) : (armFrame m v s).sck = s.sck := rfl
@[simp] theorem armFrame_din (m : FrameMode) (v : Byte) : (armFrame m v s).din = s.din := rfl
@[simp] theorem armFrame_dc (m : FrameMode) (v : Byte) : (armFrame m v s).dc = s.dc := rfl
@[simp] theorem armFrame_cs (m : FrameMode) (v : Byte) : (armFrame m v s).cs = s.cs := rfl
@[simp] theorem armFrame_rst (m : FrameMode) (v : Byte) : (armFrame m v s).rst = s.rst := rfl
@[simp] theorem armFrame_sr (m : FrameMode) (v : Byte) : (armFrame m v s).sr = s.sr := rfl
@[simp] theorem armFrame_bitcnt (m : FrameMode) (v : Byte) : (armFrame m v s).bitcnt = s.bitcnt := rfl
@[simp] theorem armFrame_tstate (m : FrameMode) (v : Byte) : (armFrame m v s).tstate = s.tstate := rfl
@[simp] theorem armFrame_arg (m : FrameMode) (v : Byte) : (armFrame m v s).arg = v := rfl
@[simp] theorem armFrame_fmode (m : FrameMode) (v : Byte) : (armFrame m v s).fmode = m := rfl
@[simp] theorem armFrame_fstate (m : FrameMode) (v : Byte) : (armFrame m v s).fstate = .dc := rfl
@[simp] theorem armFrame_op (m : FrameMode) (v : Byte) : (armFrame m v s).op = s.op := rfl
@[simp] theorem armFrame_upc (m : FrameMode) (v : Byte) : (armFrame m v s).upc = s.upc := rfl
@[simp] theorem armFrame_wstate (m : FrameMode) (v : Byte) : (armFrame m v s).wstate = s.wstate := rfl
@[simp] theorem armFrame_pollcnt (m : FrameMode) (v : Byte) : (armFrame m v s).pollcnt = s.pollcnt := rfl
@[simp] theorem armFrame_pstate (m : FrameMode) (v : Byte) : (armFrame m v s).pstate = s.pstate := rfl
@[simp] theorem armFrame_status (m : FrameMode) (v : Byte) : (armFrame m v s).status = s.status := rfl
@[simp] theorem armFrame_requests (m : FrameMode) (v : Byte) : (armFrame m v s).requests = s.requests := rfl
@[simp] theorem armFrame_busyIn (m : FrameMode) (v : Byte) : (armFrame m v s).busyIn = s.busyIn := rfl
@[simp] theorem armFrame_sampleNo (m : FrameMode) (v : Byte) : (armFrame m v s).sampleNo = s.sampleNo := rfl
@[simp] theorem armFrame_trace (m : FrameMode) (v : Byte) : (armFrame m v s).trace = s.trace := rfl

/-! ## annotate -/

@[simp] theorem annotate_cfg (p : Annot) : (annotate p s).cfg = s.cfg := by cases p <;> rfl
@[simp] theorem annotate_sck (p : Annot) : (annotate p s).sck = s.sck := by cases p <;> rfl
@[simp] theorem annotate_din (p : Annot) : (annotate p s).din = s.din := by cases p <;> rfl
@[simp] theorem annotate_dc (p : Annot) : (annotate p s).dc = s.dc := by cases p <;> rfl
@[simp] theorem annotate_cs (p : Annot) : (annotate p s).cs = s.cs := by cases p <;> rfl
@[simp] theorem annotate_rst (p : Annot) : (annotate p s).rst = s.rst := by cases p <;> rfl
@[simp] theorem annotate_sr (p : Annot) : (annotate p s).sr = s.sr := by cases p <;> rfl
@[simp] theorem annotate_bitcnt (p : Annot) : (annotate p s).bitcnt = s.bitcnt := by cases p <;> rfl
@[simp] theorem annotate_tstate (p : Annot) : (annotate p s).tstate = s.tstate := by cases p <;> rfl
@[simp] theorem annotate_arg (p : Annot) : (annotate p s).arg = s.arg := by cases p <;> rfl
@[simp] theorem annotate_fmode (p : Annot) : (annotate p s).fmode = s.fmode := by cases p <;> rfl
@[simp] theorem annotate_fstate (p : Annot) : (annotate p s).fstate = s.fstate := by cases p <;> rfl
@[simp] theorem annotate_op (p : Annot) : (annotate p s).op = s.op := by cases p <;> rfl
@[simp] theorem annotate_upc (p : Annot) : (annotate p s).upc = s.upc := by cases p <;> rfl
@[simp] theorem annotate_wstate (p : Annot) : (annotate p s).wstate = s.wstate := by cases p <;> rfl
@[simp] theorem annotate_pollcnt (p : Annot) : (annotate p s).pollcnt = s.pollcnt := by cases p <;> rfl
@[simp] theorem annotate_pstate (p : Annot) : (annotate p s).pstate = (annotState p).getD s.pstate := by cases p <;> rfl
@[simp] theorem annotate_status (p : Annot) : (annotate p s).status = s.status := by cases p <;> rfl
@[simp] theorem annotate_requests (p : Annot) : (annotate p s).requests = s.requests := by cases p <;> rfl
@[simp] theorem annotate_busyIn (p : Annot) : (annotate p s).busyIn = s.busyIn := by cases p <;> rfl
@[simp] theorem annotate_sampleNo (p : Annot) : (annotate p s).sampleNo = s.sampleNo := by cases p <;> rfl
@[simp] theorem annotate_trace (p : Annot) : (annotate p s).trace = s.trace := by cases p <;> rfl

/-! ## endProgram -/

@[simp] theorem endProgram_cfg (p : Annot) : (endProgram p s).cfg = s.cfg := by cases p <;> rfl
@[simp] theorem endProgram_sck (p : Annot) : (endProgram p s).sck = s.sck := by cases p <;> rfl
@[simp] theorem endProgram_din (p : Annot) : (endProgram p s).din = s.din := by cases p <;> rfl
@[simp] theorem endProgram_dc (p : Annot) : (endProgram p s).dc = s.dc := by cases p <;> rfl
@[simp] theorem endProgram_cs (p : Annot) : (endProgram p s).cs = s.cs := by cases p <;> rfl
@[simp] theorem endProgram_rst (p : Annot) : (endProgram p s).rst = s.rst := by cases p <;> rfl
@[simp] theorem endProgram_sr (p : Annot) : (endProgram p s).sr = s.sr := by cases p <;> rfl
@[simp] theorem endProgram_bitcnt (p : Annot) : (endProgram p s).bitcnt = s.bitcnt := by cases p <;> rfl
@[simp] theorem endProgram_tstate (p : Annot) : (endProgram p s).tstate = s.tstate := by cases p <;> rfl
@[simp] theorem endProgram_arg (p : Annot) : (endProgram p s).arg = s.arg := by cases p <;> rfl
@[simp] theorem endProgram_fmode (p : Annot) : (endProgram p s).fmode = s.fmode := by cases p <;> rfl
@[simp] theorem endProgram_fstate (p : Annot) : (endProgram p s).fstate = s.fstate := by cases p <;> rfl
@[simp] theorem endProgram_op (p : Annot) : (endProgram p s).op = .idle := by cases p <;> rfl
@[simp] theorem endProgram_upc (p : Annot) : (endProgram p s).upc = s.upc := by cases p <;> rfl
@[simp] theorem endProgram_wstate (p : Annot) : (endProgram p s).wstate = s.wstate := by cases p <;> rfl
@[simp] theorem endProgram_pollcnt (p : Annot) : (endProgram p s).pollcnt = s.pollcnt := by cases p <;> rfl
@[simp] theorem endProgram_pstate (p : Annot) : (endProgram p s).pstate = (annotState p).getD s.pstate := by cases p <;> rfl
@[simp] theorem endProgram_status (p : Annot) : (endProgram p s).status = 0 := by cases p <;> rfl
@[simp] theorem endProgram_requests (p : Annot) : (endProgram p s).requests = s.requests := by cases p <;> rfl
@[simp] theorem endProgram_busyIn (p : Annot) : (endProgram p s).busyIn = s.busyIn := by cases p <;> rfl
@[simp] theorem endProgram_sampleNo (p : Annot) : (endProgram p s).sampleNo = s.sampleNo := by cases p <;> rfl
@[simp] theorem endProgram_trace (p : Annot) : (endProgram p s).trace = s.trace := by cases p <;> rfl

/-! ## abandonWait -/

@[simp] theorem abandonWait_cfg : (abandonWait s).cfg = s.cfg := rfl
@[simp] theorem abandonWait_sck : (abandonWait s).sck = s.sck := rfl
@[simp] theorem abandonWait_din : (abandonWait s).din = s.din := rfl
@[simp] theorem abandonWait_dc : (abandonWait s).dc = s.dc := rfl
@[simp] theorem abandonWait_cs : (abandonWait s).cs = s.cs := rfl
@[simp] theorem abandonWait_rst : (abandonWait s).rst = s.rst := rfl
@[simp] theorem abandonWait_sr : (abandonWait s).sr = s.sr := rfl
@[simp] theorem abandonWait_bitcnt : (abandonWait s).bitcnt = s.bitcnt := rfl
@[simp] theorem abandonWait_tstate : (abandonWait s).tstate = s.tstate := rfl
@[simp] theorem abandonWait_arg : (abandonWait s).arg = s.arg := rfl
@[simp] theorem abandonWait_fmode : (abandonWait s).fmode = s.fmode := rfl
@[simp] theorem abandonWait_fstate : (abandonWait s).fstate = s.fstate := rfl
@[simp] theorem abandonWait_op : (abandonWait s).op = .idle := rfl
@[simp] theorem abandonWait_upc : (abandonWait s).upc = s.upc := rfl
@[simp] theorem abandonWait_wstate : (abandonWait s).wstate = s.wstate := rfl
@[simp] theorem abandonWait_pollcnt : (abandonWait s).pollcnt = s.pollcnt := rfl
@[simp] theorem abandonWait_pstate : (abandonWait s).pstate = s.pstate := rfl
@[simp] theorem abandonWait_status : (abandonWait s).status = 1 := rfl
@[simp] theorem abandonWait_requests : (abandonWait s).requests = s.requests := rfl
@[simp] theorem abandonWait_busyIn : (abandonWait s).busyIn = s.busyIn := rfl
@[simp] theorem abandonWait_sampleNo : (abandonWait s).sampleNo = s.sampleNo := rfl
@[simp] theorem abandonWait_trace : (abandonWait s).trace = s.trace := rfl

/-! ## The pins -/

@[simp] theorem pinLevel_pinWrite (p q : OutPin) (l : Level) :
    pinLevel (pinWrite p l s) q = if p = q then l else pinLevel s q := by
  cases p <;> cases q <;> rfl

@[simp] theorem pinWrite_sck (p : OutPin) (l : Level) :
    (pinWrite p l s).sck = if p = .sck then l else s.sck := pinLevel_pinWrite s p .sck l

@[simp] theorem pinWrite_din (p : OutPin) (l : Level) :
    (pinWrite p l s).din = if p = .din then l else s.din := pinLevel_pinWrite s p .din l

@[simp] theorem pinWrite_dc (p : OutPin) (l : Level) :
    (pinWrite p l s).dc = if p = .dc then l else s.dc := pinLevel_pinWrite s p .dc l

@[simp] theorem pinWrite_cs (p : OutPin) (l : Level) :
    (pinWrite p l s).cs = if p = .cs then l else s.cs := pinLevel_pinWrite s p .cs l

@[simp] theorem pinWrite_rst (p : OutPin) (l : Level) :
    (pinWrite p l s).rst = if p = .rst then l else s.rst := pinLevel_pinWrite s p .rst l

/-- The annotation is an update of `PSTATE` alone (R65). -/
theorem annotate_eq (p : Annot) :
    annotate p s = { s with pstate := (annotState p).getD s.pstate } := by
  cases p <;> rfl

end Sys2Proof.Machine
end

