-- ==== Sys2Proof/Laws/Ops.lean ====
section
/-! SUPPORT. One lemma per shared operation that says what it can do, and the facts about the ROM the
sequencer rests on. -/

namespace Sys2Proof.Machine

/-! ## The ROM -/

/-- An address holds an entry exactly when it is one of the 46 (R42). -/
theorem romEntry_isSome_iff (a : Nat) : (romEntry a).isSome = true ↔ a < 46 := by
  constructor
  · intro h
    by_contra hge
    have : rom[a]? = none := List.getElem?_eq_none (by have : rom.length = 46 := rfl; omega)
    simp [romEntry, this] at h
  · intro h
    have all : ∀ b : Fin 46, (romEntry b.val).isSome = true := by decide
    exact all ⟨a, h⟩

/-- Outside the ROM there is no entry (R42). -/
theorem romEntry_none {a : Nat} (h : 46 ≤ a) : romEntry a = none := by
  have := romEntry_isSome_iff a
  rcases hr : romEntry a with _ | e
  · rfl
  · rw [hr] at this; simp at this; omega

/-- An entry is at an address of the ROM. -/
theorem lt_of_romEntry {a : Nat} {e : RomEntry} (h : romEntry a = some e) : a < 46 :=
  (romEntry_isSome_iff a).1 (by rw [h]; rfl)

/-- An address of the ROM has a 6-bit form that gives it back (R27). -/
theorem upc_toNat {a : Nat} (h : a < 46) : (BitVec.ofNat 6 a).toNat = a := by
  rw [BitVec.toNat_ofNat]; exact Nat.mod_eq_of_lt (by omega)

/-- An entry is an `uEND`. -/
def isDone (e : RomEntry) : Bool :=
  match e.op with
  | .done => true
  | .cmd _ | .dat _ | .rst _ | .dly _ | .wrdy => false

/-- After an entry that is no `uEND` comes another entry of the same program (R27, R42). -/
theorem romEntry_succ {a : Nat} {e : RomEntry} (h : romEntry a = some e) (hd : isDone e = false) :
    ∃ e', romEntry (a + 1) = some e' ∧ programOf (a + 1) = programOf a := by
  have all : ∀ b : Fin 46, (romEntry b.val).map isDone = some false →
      (romEntry (b.val + 1)).isSome = true ∧ programOf (b.val + 1) = programOf b.val := by decide
  obtain ⟨h1, h2⟩ := all ⟨a, lt_of_romEntry h⟩ (by simp [h, hd])
  obtain ⟨e', he'⟩ := Option.isSome_iff_exists.1 h1
  exact ⟨e', he', h2⟩

/-! ## Entering and completing -/

/-- Entering an address of the ROM goes on, and starts the entry there (R96). -/
theorem enter_some {a : Nat} {e : RomEntry} (s : State) (h : romEntry a = some e) :
    enter a s = .next (startMicro e { s with upc := BitVec.ofNat 6 a }) := by
  simp [enter, h]

/-- What entering can answer: it faults exactly outside the ROM. -/
theorem enter_cases (a : Nat) (s : State) :
    (46 ≤ a ∧ enter a s = .fault .romAddressAbsent) ∨
      ∃ e, romEntry a = some e ∧
        enter a s = .next (startMicro e { s with upc := BitVec.ofNat 6 a }) := by
  rcases h : romEntry a with _ | e
  · left
    refine ⟨?_, by simp [enter, h]⟩
    by_contra hlt
    have := (romEntry_isSome_iff a).2 (by omega)
    rw [h] at this
    cases this
  · exact .inr ⟨e, rfl, enter_some s h⟩

/-- Entering never refuses. -/
theorem enter_next {a : Nat} {s t : State} (h : enter a s = .next t) :
    ∃ e, romEntry a = some e ∧ t = startMicro e { s with upc := BitVec.ofNat 6 a } := by
  rcases enter_cases a s with ⟨_, hf⟩ | ⟨e, he, hn⟩
  · rw [hf] at h; cases h
  · rw [hn] at h; cases h; exact ⟨e, he, rfl⟩

/-- Completing the entry at `UPC` applies its annotation and enters the next address (R96). -/
theorem complete_some {e : RomEntry} (s : State) (h : romEntry s.upc.toNat = some e) :
    complete s = completeWith e.annot s := by
  simp [complete, h]

/-- Completing with a next entry goes on and starts it (R96). -/
theorem completeWith_some {p : Annot} {e : RomEntry} (s : State)
    (h : romEntry (s.upc.toNat + 1) = some e) :
    completeWith p s =
      .next (startMicro e
        { s with
          pstate := (annotState p).getD s.pstate, upc := BitVec.ofNat 6 (s.upc.toNat + 1) }) := by
  rw [completeWith, enter_some _ h, annotate_eq]

/-! ## What starting a micro-operation leaves alone -/

/-- Starting a micro-operation emits nothing and changes no pin, no transport register, no parameter and
nothing of the environment (R96). -/
theorem startMicro_frame (e : RomEntry) (s : State) :
    (startMicro e s).trace = s.trace ∧ (∀ p, pinLevel (startMicro e s) p = pinLevel s p) ∧
      (startMicro e s).sr = s.sr ∧ (startMicro e s).bitcnt = s.bitcnt ∧
      (startMicro e s).tstate = s.tstate ∧ (startMicro e s).upc = s.upc ∧
      (startMicro e s).cfg = s.cfg ∧ (startMicro e s).requests = s.requests ∧
      (startMicro e s).busyIn = s.busyIn ∧ (startMicro e s).sampleNo = s.sampleNo := by
  rcases e with ⟨p, o⟩
  cases o <;> cases p <;>
    exact ⟨rfl, fun q => by cases q <;> rfl, rfl, rfl, rfl, rfl, rfl, rfl, rfl, rfl⟩

/-! ## The guards -/

@[simp] theorem whenIdle_pos {s : State} (r : Result) (h : s.op = .idle) : whenIdle s r = r := by
  simp [whenIdle, h]

@[simp] theorem whenIdle_neg {s : State} (r : Result) (h : s.op ≠ .idle) :
    whenIdle s r = .next s := by
  simp [whenIdle, h]

@[simp] theorem whenFrameDue_pos {s : State} (r : Result) (h : frameDue s = true) :
    whenFrameDue s r = r := by
  simp [whenFrameDue, h]

@[simp] theorem whenMicroDue_pos {s : State} (r : Result) (h : microDue s = true) :
    whenMicroDue s r = r := by
  simp [whenMicroDue, h]

/-- When a micro-operation is due (R39). -/
theorem microDue_iff (s : State) :
    microDue s = true ↔ s.tstate = .idle ∧ s.fstate ≠ .dc ∧ isSequencerOp s.op = true := by
  simp [microDue, and_assoc]

/-- When a frame is due (R90). -/
theorem frameDue_iff (s : State) : frameDue s = true ↔ s.tstate = .idle ∧ s.fstate = .dc := by
  simp [frameDue]

end Sys2Proof.Machine
end

