-- ==== Sys2Proof/Laws/Invariant.lean ====
section
/-! SUPPORT. What entering and completing a micro-operation do to the parts of the invariant. -/

namespace Sys2Proof.Machine

/-- The invariant, part by part. -/
theorem machineInv_iff (s : State) :
    machineInv s = true ↔ csOk s = true ∧ sckOk s = true ∧ countOk s = true ∧ dinOk s = true ∧
      frameOk s = true ∧ layersOk s = true ∧ pstateOk s = true ∧ statusOk s = true := by
  simp [machineInv, and_assoc]

/-- A program belongs to a sequencer operation (R42). -/
theorem isSequencerOp_programOf (a : Nat) : isSequencerOp (programOf a) = true := by
  unfold programOf; split_ifs <;> rfl

/-- What an operation says of the layers does not depend on the transport's phase while that is not idle. -/
theorem layersOk_congr (s t : State) (h1 : t.op = s.op) (h2 : t.fstate = s.fstate)
    (h3 : t.fmode = s.fmode) (h4 : t.arg = s.arg) (h5 : t.upc = s.upc) (h6 : s.tstate ≠ .idle)
    (h7 : t.tstate ≠ .idle) : layersOk t = layersOk s := by
  unfold layersOk microOk framePhase layersIdle
  rw [h1, h2, h3, h4, h5]
  simp [h6, h7]

/-- `PSTATE` moves along the program as its annotations say (R109). -/
theorem pstateFits_succ {a : Nat} {e e' : RomEntry} (q : PanelState) (he : romEntry a = some e)
    (he' : romEntry (a + 1) = some e') (hd : isDone e = false) (hd' : isDone e' = false)
    (h : pstateFits (programOf a) a q = true) :
    pstateFits (programOf a) (a + 1) ((annotState e.annot).getD q) = true := by
  have all : ∀ b : Fin 46,
      (match romEntry b.val, romEntry (b.val + 1) with
        | some e, some e' =>
          isDone e || isDone e' || !pstateFits (programOf b.val) b.val q ||
            pstateFits (programOf b.val) (b.val + 1) ((annotState e.annot).getD q)
        | _, _ => true) = true := by
    cases q <;> decide
  have := all ⟨a, lt_of_romEntry he⟩
  simpa [he, he', hd, hd', h] using this

/-- Entering an address with idle layers gives a state of the invariant (R96). -/
theorem inv_enter {a : Nat} {e : RomEntry} (h : romEntry a = some e) (s : State)
    (hp : programOf a = s.op) (h1 : csOk s = true) (h2 : sckOk s = true) (h3 : countOk s = true)
    (h4 : dinOk s = true) (h5 : s.fstate = .idle) (h6 : s.tstate = .idle) (h8 : statusOk s = true)
    (h7 : isDone e = false → pstateFits s.op a s.pstate = true) :
    machineInv (startMicro e { s with upc := BitVec.ofNat 6 a }) = true := by
  have hs := isSequencerOp_programOf a
  rw [hp] at hs
  have ha := upc_toNat (lt_of_romEntry h)
  rcases e with ⟨p, o⟩
  rw [machineInv_iff]
  refine ⟨?_, ?_, ?_, ?_, ?_, ?_, ?_, ?_⟩
  · cases o <;> cases p <;> exact h1
  · cases o <;> cases p <;> exact h2
  · cases o <;> cases p <;> exact h3
  · cases o <;> cases p <;> exact h4
  · cases o <;> cases p <;>
      simp [startMicro, frameOk, armFrame, h5, endProgram, annotate, annotState]
  · cases o with
    | done => cases p <;> simp [startMicro, layersOk, endProgram, annotate, annotState, layersIdle, h5, h6]
    | _ =>
      cases ho : s.op <;> rw [ho] at hs hp <;> simp [isSequencerOp] at hs <;>
        simp [startMicro, layersOk, microOk, armFrame, framePhase, layersIdle, h5, h6, ha, h, hp]
  · cases o with
    | done => cases p <;> simp [startMicro, pstateOk, pstateFits, endProgram, annotate, annotState]
    | _ => simpa [startMicro, pstateOk, armFrame, ha] using h7 rfl
  · cases o with
    | done => cases p <;> simp [startMicro, statusOk, endProgram, annotate, annotState]
    | _ => exact h8

/-- Completing an entry with idle layers goes on, in a state of the invariant (R96, R27). -/
theorem inv_complete (s : State) (e : RomEntry) (he : romEntry s.upc.toNat = some e)
    (hd : isDone e = false) (hp : programOf s.upc.toNat = s.op) (h1 : csOk s = true)
    (h2 : sckOk s = true) (h3 : countOk s = true) (h4 : dinOk s = true) (h5 : s.fstate = .idle)
    (h6 : s.tstate = .idle) (h7 : pstateOk s = true) (h8 : statusOk s = true) :
    ∃ t, completeWith e.annot s = .next t ∧ machineInv t = true := by
  obtain ⟨e', he', hp'⟩ := romEntry_succ he hd
  refine ⟨_, completeWith_some s he', ?_⟩
  refine inv_enter he' { s with pstate := (annotState e.annot).getD s.pstate } (hp'.trans hp)
    h1 h2 h3 h4 h5 h6 h8 fun hd' => ?_
  rw [pstateOk, ← hp] at h7
  have := pstateFits_succ s.pstate he he' hd hd' h7
  rwa [hp] at this

end Sys2Proof.Machine
end

