-- ==== Sys2Proof/Laws/PerInstr.lean ====
section
/-! SUPPORT. The family RoundTrip: decoding the encoding of an instruction, one lemma per constructor. -/

namespace Sys2Proof.Laws.RoundTrip

/-- A well-formed instruction is what its encoding decodes to, in its own format. -/
def Statement (i : Instr) : Prop := i.wf = true → decode i.format (encode i) = .ok i

/-- A host request word decodes by its operation code. -/
theorem request (o : BitVec 3) (v : Byte) (i : Instr)
    (h : decodeRequest (requestWord o v) = i) :
    decode .request ((requestWord o v).setWidth 16) = .ok i := by
  rw [decode_request_word, h]

/-- A ROM word decodes to its entry. -/
theorem micro (e : RomEntry) :
    decode .micro ((encodeEntry e).setWidth 16) = .ok e.toInstr := by
  rw [decode_micro_word, decodeMicro_encodeEntry]

/-- A frame word decodes by its mode and byte. -/
theorem frame (m : FrameMode) (b : Byte) :
    decode .frame ((frameWord m b).setWidth 16) = .ok (frameInstr m b) := by
  rw [decode_frame_word, decodeFrame_frameWord]

theorem transmitByte (v : Byte) : Statement (.transmitByte v) := fun _ =>
  request 0 v _ (by simp [decodeRequest])
theorem sendCommand (c : Byte) : Statement (.sendCommand c) := fun _ =>
  request 1 c _ (by simp [decodeRequest])
theorem sendData (d : Byte) : Statement (.sendData d) := fun _ =>
  request 2 d _ (by simp [decodeRequest])
theorem hardwareReset : Statement .hardwareReset := fun _ => request 3 0 _ (by simp [decodeRequest])
theorem waitUntilReady : Statement .waitUntilReady := fun _ => request 4 0 _ (by simp [decodeRequest])
theorem initializeOp : Statement .initializeOp := fun _ => request 5 0 _ (by simp [decodeRequest])
theorem refreshAndSleep : Statement .refreshAndSleep := fun _ =>
  request 6 0 _ (by simp [decodeRequest])
theorem reservedOp7 : Statement .reservedOp7 := fun _ => request 7 0 _ (by simp [decodeRequest])
theorem uCmd (p : Annot) (v : Byte) : Statement (.uCmd p v) := fun _ => micro ⟨p, .cmd v⟩
theorem uDat (p : Annot) (v : Byte) : Statement (.uDat p v) := fun _ => micro ⟨p, .dat v⟩
theorem uRst (p : Annot) (l : Level) : Statement (.uRst p l) := fun _ => micro ⟨p, .rst l⟩
theorem uDly (p : Annot) (d : DelaySel) : Statement (.uDly p d) := fun _ => micro ⟨p, .dly d⟩
theorem uWrdy (p : Annot) : Statement (.uWrdy p) := fun _ => micro ⟨p, .wrdy⟩
theorem uEnd (p : Annot) : Statement (.uEnd p) := fun _ => micro ⟨p, .done⟩
theorem powerSetting : Statement .powerSetting := fun _ => frame .cmd 0x01
theorem powerOn : Statement .powerOn := fun _ => frame .cmd 0x04
theorem panelSetting : Statement .panelSetting := fun _ => frame .cmd 0x00
theorem resolutionSetting : Statement .resolutionSetting := fun _ => frame .cmd 0x61
theorem cmd15 : Statement .cmd15 := fun _ => frame .cmd 0x15
theorem vcomDataInterval : Statement .vcomDataInterval := fun _ => frame .cmd 0x50
theorem tconSetting : Statement .tconSetting := fun _ => frame .cmd 0x60
theorem startDataWrite : Statement .startDataWrite := fun _ => frame .cmd 0x13
theorem displayRefresh : Statement .displayRefresh := fun _ => frame .cmd 0x12
theorem powerOff : Statement .powerOff := fun _ => frame .cmd 0x02
theorem deepSleep : Statement .deepSleep := fun _ => frame .cmd 0x07
theorem dataFrame (b : Byte) : Statement (.dataFrame b) := fun _ => frame .dat b
theorem commandFrameOther (b : Byte) : Statement (.commandFrameOther b) := fun h => by
  have hb : commandFrame b = .commandFrameOther b := by
    simp only [Instr.wf, namedCodes, Bool.not_eq_true', List.contains_eq_mem, decide_eq_false_iff_not,
      List.mem_cons, List.not_mem_nil, or_false, not_or] at h
    simp only [commandFrame, h, if_false]
  exact (frame .cmd b).trans (by rw [frameInstr, hb])

end Sys2Proof.Laws.RoundTrip
end

