-- ==== Sys2Proof/Laws/Step.lean ====
section
/-! SUPPORT. What a step is, layer by layer, and how steps compose to a run; the run of one bit and of one
byte of the transport. -/

namespace Sys2Proof.Machine

/-! ## Which layer performs the step -/

/-- While a byte is being sent the step is the transport's (R39). -/
theorem step_transport (s : State) (ho : s.op ≠ .idle) (ht : s.tstate ≠ .idle) :
    step s = transportStep s := by
  simp [step, due, ho, ht]

/-- When a frame is due the step runs its instruction (R39, R90). -/
theorem step_frame (s : State) (ho : s.op ≠ .idle) (ht : s.tstate = .idle) (hf : s.fstate = .dc) :
    step s = exec (decodeFrame (frameWord s.fmode s.arg)) s := by
  simp [step, due, ho, ht, hf, dueFrame]

/-- An idle core runs the host's next request (R26). -/
theorem step_request (s : State) (w : RequestWord) (ws : List RequestWord) (ho : s.op = .idle)
    (hr : s.requests = w :: ws) :
    step s = exec (decodeRequest w) { s with requests := ws } := by
  simp [step, due, ho, dueRequest, hr]

/-- A sequencer operation is not idle. -/
theorem op_ne_idle {o : Op} (h : isSequencerOp o = true) : o ≠ .idle := by
  intro h'; subst h'; cases h

/-- Otherwise the step runs the micro-operation at `UPC` (R39). -/
theorem step_micro (s : State) (e : RomEntry) (ho : isSequencerOp s.op = true)
    (ht : s.tstate = .idle) (hf : s.fstate ≠ .dc) (he : romEntry s.upc.toNat = some e) :
    step s = exec e.toInstr s := by
  simp [step, due, op_ne_idle ho, ht, hf, dueMicro, ho, he]

/-- The six ways a step can go. -/
theorem step_cases (s : State) :
    (s.op = .idle ∧ s.requests = [] ∧ step s = .next s) ∨
    (∃ w ws, s.op = .idle ∧ s.requests = w :: ws ∧
      step s = exec (decodeRequest w) { s with requests := ws }) ∨
    (s.op ≠ .idle ∧ s.tstate ≠ .idle ∧ step s = transportStep s) ∨
    (s.op ≠ .idle ∧ s.tstate = .idle ∧ s.fstate = .dc ∧
      step s = exec (decodeFrame (frameWord s.fmode s.arg)) s) ∨
    (∃ e, isSequencerOp s.op = true ∧ s.tstate = .idle ∧ s.fstate ≠ .dc ∧
      romEntry s.upc.toNat = some e ∧ step s = exec e.toInstr s) ∨
    (∃ r, step s = .fault r) := by
  by_cases ho : s.op = .idle
  · cases hr : s.requests with
    | nil => exact .inl ⟨ho, rfl, by simp [step, due, ho, dueRequest, hr]⟩
    | cons w ws => exact .inr (.inl ⟨w, ws, ho, rfl, step_request s w ws ho hr⟩)
  by_cases ht : s.tstate = .idle
  · by_cases hf : s.fstate = .dc
    · exact .inr (.inr (.inr (.inl ⟨ho, ht, hf, step_frame s ho ht hf⟩)))
    · cases hq : isSequencerOp s.op with
      | false => exact .inr (.inr (.inr (.inr (.inr ⟨_, by simp [step, due, ho, ht, hf, dueMicro, hq]; rfl⟩))))
      | true =>
        cases he : romEntry s.upc.toNat with
        | none =>
          exact .inr (.inr (.inr (.inr (.inr
            ⟨_, by simp [step, due, ho, ht, hf, dueMicro, hq, he]; rfl⟩))))
        | some e =>
          exact .inr (.inr (.inr (.inr (.inl ⟨e, rfl, ht, hf, rfl, step_micro s e hq ht hf he⟩))))
  · exact .inr (.inr (.inl ⟨ho, ht, step_transport s ho ht⟩))

/-- Every frame word runs as the frame of its mode and byte: the row it decodes to changes nothing on
the wire (R69). -/
theorem exec_frameInstr (m : FrameMode) (b : Byte) (s : State) :
    exec (frameInstr m b) s = sendFrame m b s := by
  cases m with
  | dat => rfl
  | cmd =>
    simp only [frameInstr, commandFrame]
    repeat' split
    all_goals (subst_vars; rfl)

/-! ## Runs -/

theorem run_step {n : Nat} {s t : State} (h : step s = .next t) : run (n + 1) s = run n t := by
  simp [run, h]

theorem run_add (m n : Nat) (s t : State) (h : run m s = .next t) : run (m + n) s = run n t := by
  induction m generalizing s with
  | zero => simp only [run, Host.Outcome.next.injEq] at h; subst h; simp
  | succ m ih =>
    rw [show m + 1 + n = (m + n) + 1 by omega]
    simp only [run] at h ⊢
    split at h
    · exact ih _ h
    · cases h
    · cases h

/-! ## One bit and one byte of the transport -/

/-- One bit: data, clock high, clock low (R76 to R78). -/
theorem bit_run (s : State) (h : s.op ≠ .idle) (ht : s.tstate = .setd) :
    run 3 s = .next
      { s with
        din := lvl (s.sr.getLsbD 7), sck := .L, sr := shiftLeft s.sr
        bitcnt := countDown s.bitcnt
        tstate := if noBitsLeft (countDown s.bitcnt) then .csh else .setd
        trace := s.trace ++ bitEvents (s.sr.getLsbD 7) } := by
  have h1 : step s = .next (stepSetData s) := by
    rw [step_transport s h (by simp [ht])]; simp [transportStep, ht]
  have h2 : step (stepSetData s) = .next (stepClockHigh (stepSetData s)) := by
    rw [step_transport _ (by simpa [stepSetData] using h) (by simp [stepSetData])]; rfl
  have h3 : step (stepClockHigh (stepSetData s)) =
      .next (stepClockLow (stepClockHigh (stepSetData s))) := by
    rw [step_transport _ (by simpa [stepSetData, stepClockHigh] using h) (by simp [stepClockHigh])]
    rfl
  rw [run_step h1, run_step h2, run_step h3]
  simp [run, stepClockLow, stepClockHigh, stepSetData, pinWrite, setPin, emit, bitEvents]

/-- One byte up to its last clock pulse, from the assertion of chip-select (R75 to R78). -/
theorem byte_run (s : State) (h : s.op ≠ .idle) (ht : s.tstate = .csl) (hb : s.bitcnt = 8) :
    run 25 s = .next
      { s with
        cs := .L, din := lvl (s.sr.getLsbD 0), sck := .L, sr := 0, bitcnt := 0, tstate := .csh
        trace := s.trace ++ ([.w .cs .L] ++ (bitsMsbFirst s.sr).flatMap bitEvents) } := by
  have h1 : step s = .next (stepAssertCs s) := by
    rw [step_transport s h (by simp [ht])]; simp [transportStep, ht]
  rw [run_step h1, show 24 = 3 + (3 + (3 + (3 + (3 + (3 + (3 + 3)))))) by rfl]
  iterate 7
    rw [run_add _ _ _ _ (bit_run _ (by simpa [stepAssertCs] using h)
      (by simp [stepAssertCs, hb, countDown, noBitsLeft]))]
  rw [bit_run _ (by simpa [stepAssertCs] using h)
    (by simp [stepAssertCs, hb, countDown, noBitsLeft])]
  obtain ⟨⟩ := s
  simp only at hb; subst hb
  simp [stepAssertCs, pinWrite, setPin, emit, countDown, noBitsLeft, bitsMsbFirst, shiftLeft]

end Sys2Proof.Machine
end

