-- ==== Sys2Proof/Laws/Runs.lean ====
section
/-! SUPPORT. The run of each ROM entry, from its start to the start of the next one: what the runs of the
operations are composed of. An entry of the sequencer is met with `OP` a sequencer operation, the
transport idle, and the framer due (`uCMD`, `uDAT`) or not (the others). -/

namespace Sys2Proof.Machine

/-! ## Composing runs -/

/-- A run in two parts. -/
theorem run_chain {s t : State} {r : Result} (m n : Nat) {k : Nat} (h : run m s = .next t)
    (hk : k = m + n) (h2 : run n t = r) : run k s = r := by
  subst hk; rw [run_add m n s t h, h2]

/-- A run of one step. -/
theorem run_one (s : State) : run 1 s = step s := by
  simp only [run]; cases step s <;> rfl

/-! ## Accepting a request -/

/-- The step of an idle core whose next request is `{o, v}` (R26, R62). -/
theorem step_accepts {o : BitVec 3} {v : Byte} {i : Instr} (h : decodeRequest (requestWord o v) = i)
    (s : State) (ws : List RequestWord) (ho : s.op = .idle) (hr : s.requests = requestWord o v :: ws) :
    step s = exec i { s with requests := ws } := by
  rw [step_request s _ _ ho hr, h]

/-- Accepting a sequencer operation starts the entry at its address (R96). -/
theorem accept_some (o : Op) (a : Nat) (e : RomEntry) (he : romEntry a = some e) (s : State)
    (ho : s.op = .idle) :
    accept o a s = .next (startMicro e { s with op := o, upc := BitVec.ofNat 6 a }) := by
  rw [accept, whenIdle_pos _ ho, enter_some _ he]

/-! ## A frame -/

/-- A frame of 27 events, up to its last step (R90, R75 to R79). -/
theorem frame_run (s : State) (ho : s.op ≠ .idle) (ht : s.tstate = .idle) (hf : s.fstate = .dc) :
    run 27 s = stepReleaseCs
      { s with
        dc := dcLevel s.cfg s.fmode, cs := .L, din := lvl (s.arg.getLsbD 0), sck := .L
        sr := 0, bitcnt := 0, tstate := .csh, fstate := .xmit
        trace := s.trace ++
          (.w .dc (dcLevel s.cfg s.fmode) :: .w .cs .L :: (bitsMsbFirst s.arg).flatMap bitEvents) } := by
  have h1 : step s =
      .next { loadByte s.arg (pinWrite .dc (dcLevel s.cfg s.fmode) s) with fstate := .xmit } := by
    rw [step_frame s ho ht hf, decodeFrame_frameWord, exec_frameInstr, sendFrame,
      whenFrameDue_pos _ ((frameDue_iff s).2 ⟨ht, hf⟩)]
  rw [run_step h1, show 26 = 25 + 1 by rfl,
    run_add 25 1 _ _ (byte_run _ (by simpa using ho) rfl rfl), run_one,
    step_transport _ (by simpa using ho) (by simp)]
  simp [transportStep, pinWrite, setPin, emit, loadByte]

/-- A `uCMD` or `uDAT` at address `a`: its frame, and the next entry (R97, R98). -/
theorem frameEntry_run (a : Nat) (e e' : RomEntry) (s : State) (hu : s.upc = BitVec.ofNat 6 a)
    (h : romEntry a = some e) (h' : romEntry (a + 1) = some e') (ho : isSequencerOp s.op = true)
    (ht : s.tstate = .idle) (hf : s.fstate = .dc) :
    run 27 s = .next (startMicro e'
      { s with
        dc := dcLevel s.cfg s.fmode, cs := .H, din := lvl (s.arg.getLsbD 0), sck := .L
        sr := 0, bitcnt := 0, tstate := .idle, fstate := .idle
        pstate := (annotState e.annot).getD s.pstate, upc := BitVec.ofNat 6 (a + 1)
        trace := s.trace ++ traceFrame s.cfg s.fmode s.arg }) := by
  have hb : isByteOp s.op = false := by cases hh : s.op <;> simp_all [isSequencerOp, isByteOp]
  have ha := upc_toNat (lt_of_romEntry h)
  rw [frame_run s (op_ne_idle ho) ht hf, stepReleaseCs]
  simp only [hb, Bool.false_eq_true, if_false]
  rw [complete_some (e := e) _ (by simp [releaseCs, hu, ha, h]),
    completeWith_some (e := e') _ (by simp [releaseCs, hu, ha, h'])]
  simp [releaseCs, hu, ha, framerReturn, pinWrite, setPin, emit, traceFrame, traceX]

/-! ## An entry of one event -/

/-- An entry that completes in its one step, leaving `u` before it completes (R99, R100). -/
theorem eventEntry_run (a : Nat) (e e' : RomEntry) (s : State) (hu : s.upc = BitVec.ofNat 6 a)
    (h : romEntry a = some e) (h' : romEntry (a + 1) = some e') (ho : isSequencerOp s.op = true)
    (ht : s.tstate = .idle) (hf : s.fstate ≠ .dc) (u : State)
    (hm : exec e.toInstr s = completeWith e.annot u) (huu : u.upc = s.upc) :
    run 1 s = .next (startMicro e'
      { u with
        pstate := (annotState e.annot).getD u.pstate, upc := BitVec.ofNat 6 (a + 1) }) := by
  have ha := upc_toNat (lt_of_romEntry h)
  rw [run_one, step_micro s e ho ht hf (by rw [hu, ha]; exact h), hm,
    completeWith_some (e := e') _ (by rw [huu, hu, ha, h'])]
  rw [huu, hu, ha]

/-- `uRST l` at address `a` (R99). -/
theorem rst_run (a : Nat) (p : Annot) (l : Level) (e' : RomEntry) (s : State)
    (hu : s.upc = BitVec.ofNat 6 a) (h : romEntry a = some ⟨p, .rst l⟩)
    (h' : romEntry (a + 1) = some e') (ho : isSequencerOp s.op = true)
    (ht : s.tstate = .idle) (hf : s.fstate ≠ .dc) :
    run 1 s = .next (startMicro e'
      { s with
        rst := l, trace := s.trace ++ [.w .rst l], pstate := (annotState p).getD s.pstate
        upc := BitVec.ofNat 6 (a + 1) }) :=
  eventEntry_run a _ e' s hu h h' ho ht hf (pinWrite .rst l s)
    (by simp [RomEntry.toInstr, exec, execURst, whenMicroDue_pos _ ((microDue_iff s).2 ⟨ht, hf, ho⟩)])
    rfl

/-- `uDLY d` at address `a` (R100). -/
theorem dly_run (a : Nat) (p : Annot) (d : DelaySel) (e' : RomEntry) (s : State)
    (hu : s.upc = BitVec.ofNat 6 a) (h : romEntry a = some ⟨p, .dly d⟩)
    (h' : romEntry (a + 1) = some e') (ho : isSequencerOp s.op = true)
    (ht : s.tstate = .idle) (hf : s.fstate ≠ .dc) :
    run 1 s = .next (startMicro e'
      { s with
        trace := s.trace ++ [.t (delayOf s.cfg d)], pstate := (annotState p).getD s.pstate
        upc := BitVec.ofNat 6 (a + 1) }) :=
  eventEntry_run a _ e' s hu h h' ho ht hf (delay (delayOf s.cfg d) s)
    (by simp [RomEntry.toInstr, exec, execUDly, whenMicroDue_pos _ ((microDue_iff s).2 ⟨ht, hf, ho⟩)])
    rfl

/-! ## The busy wait -/

/-- `uWRDY` takes a sample (R101, R139). -/
theorem sample_step (a : Nat) (p : Annot) (s : State) (hu : s.upc = BitVec.ofNat 6 a)
    (h : romEntry a = some ⟨p, .wrdy⟩) (ho : isSequencerOp s.op = true)
    (ht : s.tstate = .idle) (hf : s.fstate ≠ .dc) (hw : s.wstate = .sample) :
    step s = .next (afterSample (busyLevel s) (pinRead s)) := by
  have ha := upc_toNat (lt_of_romEntry h)
  rw [step_micro s _ ho ht hf (by rw [hu, ha]; exact h)]
  simp [RomEntry.toInstr, exec, execUWrdy, whenMicroDue_pos _ ((microDue_iff s).2 ⟨ht, hf, ho⟩), hw]

/-- `uWRDY` waits out a poll interval (R101). -/
theorem poll_step (a : Nat) (p : Annot) (s : State) (hu : s.upc = BitVec.ofNat 6 a)
    (h : romEntry a = some ⟨p, .wrdy⟩) (ho : isSequencerOp s.op = true)
    (ht : s.tstate = .idle) (hf : s.fstate ≠ .dc) (hw : s.wstate = .poll) :
    step s = .next { delay s.cfg.nPoll s with wstate := .sample } := by
  have ha := upc_toNat (lt_of_romEntry h)
  rw [step_micro s _ ho ht hf (by rw [hu, ha]; exact h)]
  simp [RomEntry.toInstr, exec, execUWrdy, whenMicroDue_pos _ ((microDue_iff s).2 ⟨ht, hf, ho⟩), hw]

/-- `uWRDY` waits the one more interval and completes (R101). -/
theorem final_run (a : Nat) (p : Annot) (e' : RomEntry) (s : State) (hu : s.upc = BitVec.ofNat 6 a)
    (h : romEntry a = some ⟨p, .wrdy⟩) (h' : romEntry (a + 1) = some e')
    (ho : isSequencerOp s.op = true) (ht : s.tstate = .idle) (hf : s.fstate ≠ .dc)
    (hw : s.wstate = .final) :
    run 1 s = .next (startMicro e'
      { s with
        trace := s.trace ++ [.t s.cfg.nPoll], pstate := (annotState p).getD s.pstate
        upc := BitVec.ofNat 6 (a + 1) }) :=
  eventEntry_run a _ e' s hu h h' ho ht hf (delay s.cfg.nPoll s)
    (by
      simp [RomEntry.toInstr, exec, execUWrdy,
        whenMicroDue_pos _ ((microDue_iff s).2 ⟨ht, hf, ho⟩), hw])
    rfl

/-- `j` samples that see busy, without a timeout: the wait is where it was (R101, R107). -/
theorem polls_run (a : Nat) (p : Annot) (h : romEntry a = some ⟨p, .wrdy⟩) (rest : List Level)
    (j : Nat) (s : State) (hu : s.upc = BitVec.ofNat 6 a) (ho : isSequencerOp s.op = true)
    (ht : s.tstate = .idle) (hf : s.fstate ≠ .dc) (hw : s.wstate = .sample)
    (hc : s.cfg.busyTimeout = none) (hb : s.busyIn = List.replicate j .L ++ rest) :
    run (2 * j) s = .next
      { s with
        busyIn := rest, sampleNo := s.sampleNo + j, trace := s.trace ++ tracePolls s.cfg j } := by
  induction j generalizing s with
  | zero => simp [run, tracePolls]; cases s; simp_all
  | succ j ih =>
    have hL : busyLevel s = .L := by simp [busyLevel, hb, List.replicate_succ]
    have h1 : step s = .next { pinRead s with wstate := .poll } := by
      rw [sample_step a p s hu h ho ht hf hw, hL]; simp [afterSample, busyReady, hc]
    have h2 := poll_step a p { pinRead s with wstate := .poll } hu h ho ht hf rfl
    rw [show 2 * (j + 1) = 2 * j + 1 + 1 by omega, run_step h1, run_step h2,
      ih _ (by exact hu) (by exact ho) (by exact ht) (by exact hf) rfl (by exact hc)
        (by simp [hb, List.replicate_succ])]
    simp [tracePolls, pinRead, delay, emit, hL, hw]; omega

/-- A busy wait that sees busy `j` times and then ready, without a timeout (R101, R106). -/
theorem wait_run (a : Nat) (p : Annot) (e' : RomEntry) (h : romEntry a = some ⟨p, .wrdy⟩)
    (h' : romEntry (a + 1) = some e') (rest : List Level) (j : Nat) (s : State)
    (hu : s.upc = BitVec.ofNat 6 a) (ho : isSequencerOp s.op = true) (ht : s.tstate = .idle)
    (hf : s.fstate ≠ .dc) (hw : s.wstate = .sample) (hc : s.cfg.busyTimeout = none)
    (hb : s.busyIn = List.replicate j .L ++ .H :: rest) :
    run (2 * j + 2) s = .next (startMicro e'
      { s with
        busyIn := rest, sampleNo := s.sampleNo + (j + 1), wstate := .final
        trace := s.trace ++ traceWait s.cfg j, pstate := (annotState p).getD s.pstate
        upc := BitVec.ofNat 6 (a + 1) }) := by
  rw [run_add (2 * j) 2 _ _ (polls_run a p h _ j s hu ho ht hf hw hc hb)]
  have h1 := sample_step a p
    { s with
      busyIn := .H :: rest, sampleNo := s.sampleNo + j
      trace := s.trace ++ tracePolls s.cfg j } hu h ho ht hf hw
  rw [run_step h1]
  simp only [busyLevel, afterSample, busyReady, beq_self_eq_true, if_true]
  refine (final_run a p e' _ (by exact hu) h h' (by exact ho) (by exact ht) (by exact hf) rfl).trans ?_
  simp [traceWait, pinRead, emit, busyLevel, Nat.add_assoc]

/-- A busy wait that gives up: `n + 1` samples that see busy bring the count to the timeout (R139). -/
theorem giveUp_run (a : Nat) (p : Annot) (h : romEntry a = some ⟨p, .wrdy⟩) (rest : List Level)
    (m n : Nat) (s : State) (hu : s.upc = BitVec.ofNat 6 a) (ho : isSequencerOp s.op = true)
    (ht : s.tstate = .idle) (hf : s.fstate ≠ .dc) (hw : s.wstate = .sample)
    (hc : s.cfg.busyTimeout = some m) (hp : s.pollcnt + n + 1 = m)
    (hb : s.busyIn = List.replicate (n + 1) .L ++ rest) :
    run (2 * n + 1) s = .next
      { s with
        busyIn := rest, sampleNo := s.sampleNo + (n + 1), pollcnt := m, status := 1, op := .idle
        trace := s.trace ++ (tracePolls s.cfg n ++ [.s .L]) } := by
  induction n generalizing s with
  | zero =>
    have hL : busyLevel s = .L := by simp [busyLevel, hb, List.replicate_succ]
    rw [show 2 * 0 + 1 = 1 by rfl, run_one, sample_step a p s hu h ho ht hf hw, hL]
    have : s.pollcnt + 1 = m := by omega
    simp [afterSample, busyReady, hc, waitGivesUp, this, abandonWait, pinRead, emit, hL, hb,
      List.replicate_succ, tracePolls, statusTimeout]
  | succ j ih =>
    have hL : busyLevel s = .L := by simp [busyLevel, hb, List.replicate_succ]
    have hne : ¬m = s.pollcnt + 1 := by omega
    have h1 : step s = .next { pinRead s with pollcnt := s.pollcnt + 1, wstate := .poll } := by
      rw [sample_step a p s hu h ho ht hf hw, hL]
      simp [afterSample, busyReady, hc, waitGivesUp, hne]
    have h2 := poll_step a p { pinRead s with pollcnt := s.pollcnt + 1, wstate := .poll }
      hu h ho ht hf rfl
    rw [show 2 * (j + 1) + 1 = 2 * j + 1 + 1 + 1 by omega, run_step h1, run_step h2,
      ih _ (by exact hu) (by exact ho) (by exact ht) (by exact hf) rfl (by exact hc)
        (by simp; omega) (by simp [hb, List.replicate_succ])]
    simp [tracePolls, pinRead, delay, emit, hL, hw]; omega

end Sys2Proof.Machine
end

