-- ==== Sys2Proof/Tests/Slice0.lean ====
section
/-! SUPPORT. Tests. Words are written out from the encodings of spec/30_encoding.md; the expected results of
the step tests are the vectors of spec/95_test_vectors.md named in each comment. The `witness_` theorems
show, for each statement with hypotheses, a state and operands that meet them together. -/

namespace Sys2Proof.Tests

open Sys2Proof.Machine

/-! ## Well-formedness -/

/-- COMMAND_FRAME_OTHER is for codes that are none of the eleven (opcode table). -/
theorem test_wf_refuses_named_code : (Instr.commandFrameOther 0x13).wf = false := by decide

theorem test_wf_refuses_named_code_zero : (Instr.commandFrameOther 0x00).wf = false := by decide

/-- A program containing operation code 7 is not well formed (U1). -/
theorem test_wf_refuses_reserved_operation : Instr.reservedOp7.wf = false := by decide

theorem test_wf_accepts_other_code : (Instr.commandFrameOther 0x08).wf = true := by decide

/-- A configuration with two pins on one number, a settle delay under 200 microseconds, or a timeout of
0 is refused (R10, R13, R139); the default is not. -/
theorem test_config_wf :
    Config.default.wf = true ∧
    { Config.default with pinDin := 0 }.wf = false ∧
    { Config.default with tuMicroseconds := 1 }.wf = false ∧
    { Config.default with busyTimeout := some 0 }.wf = false ∧
    { Config.default with tuMicroseconds := 2, busyTimeout := some 1 }.wf = true := by decide

/-! ## Decoding: one word for every row, written from R58, R60, R62 to R67 -/

/-- `{op, arg}` (R62, R63; V23). -/
theorem test_decode_requests :
    decode .request 0b000_10100101 = .ok (.transmitByte 0xA5) ∧
    decode .request 0b001_00010011 = .ok (.sendCommand 0x13) ∧
    decode .request 0b010_10100101 = .ok (.sendData 0xA5) ∧
    decode .request 0b011_00000000 = .ok .hardwareReset ∧
    decode .request 0b011_11111111 = .ok .hardwareReset ∧
    decode .request 0b100_00000000 = .ok .waitUntilReady ∧
    decode .request 0b101_00000000 = .ok .initializeOp ∧
    decode .request 0b110_10100101 = .ok .refreshAndSleep ∧
    decode .request 0b111_00000000 = .ok .reservedOp7 := by decide

/-- `{p, k, v}` (R65 to R67; V24). -/
theorem test_decode_micro :
    decode .micro 0b000_000_00000001 = .ok (.uCmd .keep 0x01) ∧
    decode .micro 0b000_001_00111111 = .ok (.uDat .keep 0x3F) ∧
    decode .micro 0b000_010_00000000 = .ok (.uRst .keep .L) ∧
    decode .micro 0b001_010_00000001 = .ok (.uRst .resetting .H) ∧
    decode .micro 0b010_011_00000010 = .ok (.uDly .configuring .rstPost) ∧
    decode .micro 0b000_011_00000100 = .ok (.uDly .keep .refresh) ∧
    decode .micro 0b000_100_00000000 = .ok (.uWrdy .keep) ∧
    decode .micro 0b011_101_00000000 = .ok (.uEnd .ready) ∧
    decode .micro 0b100_101_00000000 = .ok (.uEnd .sleeping) := by decide

/-- `{t, b}` (R58, R60; V25). -/
theorem test_decode_frames :
    decode .frame 0b0_00000001 = .ok .powerSetting ∧
    decode .frame 0b0_00000100 = .ok .powerOn ∧
    decode .frame 0b0_00000000 = .ok .panelSetting ∧
    decode .frame 0b0_01100001 = .ok .resolutionSetting ∧
    decode .frame 0b0_00010101 = .ok .cmd15 ∧
    decode .frame 0b0_01010000 = .ok .vcomDataInterval ∧
    decode .frame 0b0_01100000 = .ok .tconSetting ∧
    decode .frame 0b0_00010011 = .ok .startDataWrite ∧
    decode .frame 0b0_00010010 = .ok .displayRefresh ∧
    decode .frame 0b0_00000010 = .ok .powerOff ∧
    decode .frame 0b0_00000111 = .ok .deepSleep ∧
    decode .frame 0b1_10100101 = .ok (.dataFrame 0xA5) ∧
    decode .frame 0b1_00010011 = .ok (.dataFrame 0x13) ∧
    decode .frame 0b0_00001000 = .ok (.commandFrameOther 0x08) := by decide

/-- Every reserved encoding of R68, and a bit above the format, is rejected by name. -/
theorem test_decode_rejects :
    decode .micro 0b000_110_00000000 = .error .reservedKind ∧
    decode .micro 0b000_111_00000000 = .error .reservedKind ∧
    decode .micro 0b101_000_00000001 = .error .reservedAnnotation ∧
    decode .micro 0b000_011_00000101 = .error .reservedSelector ∧
    decode .micro 0b000_010_00000010 = .error .reservedResetOperand ∧
    decode .micro 0b000_100_00000001 = .error .operandNotZero ∧
    decode .micro 0b000_101_00000001 = .error .operandNotZero ∧
    decode .request 0b1_000_00000000 = .error .tooWide ∧
    decode .micro 0b1_000_000_00000000 = .error .tooWide ∧
    decode .frame 0b1_0_00000000 = .error .tooWide := by decide

/-- The untagged reading: the width names the format; a whole container is read as log entry 8 says. -/
theorem test_decodeTableWord :
    decodeTableWord 11 0x113 = some (.sendCommand 0x13) ∧
    decodeTableWord 9 0x113 = some (.dataFrame 0x13) ∧
    decodeTableWord 14 0x113 = some (.uDat .keep 0x13) ∧
    decodeTableWord 16 0x113 = some (.sendCommand 0x13) ∧
    decodeTableWord 16 0x0A01 = some (.uRst .resetting .H) ∧
    decodeTableWord 16 0x4000 = none ∧ decodeTableWord 8 0x01 = none := by decide

/-- The encoder writes the words the vectors give (V23, V24, V25). -/
theorem test_encode :
    encode (.sendData 0xA5) = 0x2A5 ∧ encode (.uDly .configuring .rstPost) = 0x1302 ∧
    encode (.uEnd .sleeping) = 0x2500 ∧ encode (.dataFrame 0x13) = 0x113 ∧
    encode .startDataWrite = 0x013 := by decide

/-- The ROM by its listings: 46 words, the four entry points, the resolution bytes (R42, R108, R113). -/
theorem test_rom :
    rom.length = 46 ∧ romEntry 0 = some ⟨.resetting, .rst .H⟩ ∧ romEntry 7 = some ⟨.keep, .wrdy⟩ ∧
    romEntry 9 = some ⟨.resetting, .rst .H⟩ ∧ romEntry 39 = some ⟨.keep, .cmd 0x12⟩ ∧
    (rom.drop 26).take 4 = [0x0103, 0x0120, 0x0101, 0x01E0] ∧
    romEntry 45 = some ⟨.sleeping, .done⟩ ∧ romEntry 46 = none := by decide

/-! ## Text (R71) -/

theorem test_assemble :
    assemble (["SEND_COMMAND 0x13 ; arm", "", "INITIALIZE"].map String.toList) =
        some [0x113, 0x500] ∧
    assemble (["SEND_COMMAND"].map String.toList) = none ∧
    assemble (["INITIALIZE 0x00"].map String.toList) = none := by decide

theorem test_parseEntry :
    parseEntry "uRST H -> RESETTING".toList = some ⟨.resetting, .rst .H⟩ ∧
    parseEntry "uDLY RST_POST -> CONFIGURING".toList = some ⟨.configuring, .dly .rstPost⟩ ∧
    parseEntry "uCMD 0x61".toList = some ⟨.keep, .cmd 0x61⟩ ∧
    parseEntry "uEND -> READY".toList = some ⟨.ready, .done⟩ ∧
    parseEntry "uRST 1".toList = none := by decide

/-! ## States for the step tests -/

/-- A field of a next state. -/
def got {α : Type} (f : State → α) : Result → Option α
  | .next t => some (f t)
  | .fault _ => none
  | .refused _ => none

/-- The reset state with one request presented. -/
def asked (w : RequestWord) : State := { State.reset with requests := [w] }

/-- A raw byte in progress. -/
def atByte (t : TState) (v : Byte) (n : Fin 9) (cs sck : Level) : State :=
  { State.reset with op := .transmitByte, tstate := t, sr := v, bitcnt := n, cs := cs, sck := sck }

/-- A frame due. -/
def atFrame (m : FrameMode) (b : Byte) : State :=
  { State.reset with op := frameOp m .idle, fmode := m, arg := b, fstate := .dc }

/-- An entry of the ROM due, with no frame due. -/
def atMicro (a : Nat) : State :=
  { State.reset with op := programOf a, upc := BitVec.ofNat 6 a, pstate := .configuring }

/-- A busy wait at address 7 in a phase, with a timeout, a count and the samples to come. -/
def atWait (w : WState) (n : Option Nat) (count : Nat) (ls : List Level) : State :=
  { atMicro 7 with
    cfg := { Config.default with busyTimeout := n }, wstate := w, pollcnt := count, busyIn := ls }

/-! ## Host requests -/

/-- V1, acceptance. -/
theorem test_transmitByte :
    got (fun t => (t.op, t.sr, t.bitcnt, t.tstate, t.trace)) (step (asked 0x0A5)) =
      some (.transmitByte, 0xA5, 8, .csl, []) := by decide

/-- V6, acceptance. -/
theorem test_sendCommand :
    got (fun t => (t.op, t.arg, t.fmode, t.fstate, t.trace)) (step (asked 0x113)) =
      some (.sendCommand, 0x13, .cmd, .dc, []) := by decide

/-- R89, acceptance. -/
theorem test_sendData :
    got (fun t => (t.op, t.arg, t.fmode, t.fstate)) (step (asked 0x2A5)) =
      some (.sendData, 0xA5, .dat, .dc) := by decide

/-- V10, acceptance; `arg` is ignored (V23). -/
theorem test_hardwareReset :
    got (fun t => (t.op, t.upc, t.fstate, t.trace)) (step (asked 0x3FF)) =
      some (.hardwareReset, 0, .idle, []) := by decide

/-- V12, acceptance. -/
theorem test_waitUntilReady :
    got (fun t => (t.op, t.upc, t.wstate, t.pollcnt))
        (step { asked 0x400 with wstate := .final, pollcnt := 5 }) =
      some (.waitUntilReady, 7, .sample, 0) := by decide

/-- R121, R122: INITIALIZE enters at 9. -/
theorem test_initialize :
    got (fun t => (t.op, t.upc, t.pstate)) (step (asked 0x500)) =
      some (.initializeOp, 9, .uninit) := by decide

/-- R127, R128: REFRESH_AND_SLEEP enters at 39, a command frame. -/
theorem test_refreshAndSleep :
    got (fun t => (t.op, t.upc, t.arg, t.fmode, t.fstate)) (step (asked 0x600)) =
      some (.refreshAndSleep, 39, 0x12, .cmd, .dc) := by decide

/-- U1, V23: 0x700 is refused. -/
theorem test_reservedOp7 : step (asked 0x700) = .refused .reservedOperationCode := rfl

/-- V5: a request presented during a byte changes nothing; the byte goes on. -/
theorem test_request_held :
    exec (.sendData 0x01) (atByte .ckh 0xA5 8 .L .L) = .next (atByte .ckh 0xA5 8 .L .L) := rfl

theorem test_request_kept :
    got (fun t => (t.requests, t.trace))
        (step { atByte .ckh 0xA5 8 .L .L with requests := [0x2A5] }) =
      some ([0x2A5], [.w .sck .H]) := by decide

/-! ## The transport, V1 -/

theorem test_transport_select :
    got (fun t => (t.cs, t.tstate, t.trace)) (step (atByte .csl 0xA5 8 .H .L)) =
      some (.L, .setd, [.w .cs .L]) := by decide

theorem test_transport_data :
    got (fun t => (t.din, t.tstate, t.trace)) (step (atByte .setd 0xA5 8 .L .L)) =
      some (.H, .ckh, [.w .din .H]) := by decide

/-- Steps 4 and 25. -/
theorem test_transport_clock_low :
    got (fun t => (t.sr, t.bitcnt, t.tstate)) (step (atByte .ckl 0xA5 8 .L .H)) =
        some (0x4A, 7, .setd) ∧
    got (fun t => (t.sr, t.bitcnt, t.tstate)) (step (atByte .ckl 0x80 1 .L .H)) =
        some (0x00, 0, .csh) := by decide

/-- Step 26. -/
theorem test_transport_return :
    got (fun t => (t.cs, t.tstate, t.op, t.trace)) (step (atByte .csh 0x00 0 .L .L)) =
      some (.H, .idle, .idle, [.w .cs .H]) := by decide

/-! ## Frames: V6, V7 and R60; the frame that is due runs the row it decodes to -/

/-- The mode-select level, the byte and the phase of a frame just started. -/
def started (r : Result) : Option (Level × Byte × TState × List Event) :=
  got (fun t => (t.dc, t.sr, t.tstate, t.trace)) r

theorem test_powerSetting :
    started (exec .powerSetting (atFrame .cmd 0x01)) = some (.L, 0x01, .csl, [.w .dc .L]) := by decide

theorem test_powerOn :
    started (exec .powerOn (atFrame .cmd 0x04)) = some (.L, 0x04, .csl, [.w .dc .L]) := by decide

theorem test_panelSetting :
    started (exec .panelSetting (atFrame .cmd 0x00)) = some (.L, 0x00, .csl, [.w .dc .L]) := by decide

theorem test_resolutionSetting :
    started (exec .resolutionSetting (atFrame .cmd 0x61)) =
      some (.L, 0x61, .csl, [.w .dc .L]) := by decide

theorem test_cmd15 :
    started (exec .cmd15 (atFrame .cmd 0x15)) = some (.L, 0x15, .csl, [.w .dc .L]) := by decide

theorem test_vcomDataInterval :
    started (exec .vcomDataInterval (atFrame .cmd 0x50)) =
      some (.L, 0x50, .csl, [.w .dc .L]) := by decide

theorem test_tconSetting :
    started (exec .tconSetting (atFrame .cmd 0x60)) = some (.L, 0x60, .csl, [.w .dc .L]) := by decide

/-- V6, step 1, by the step. -/
theorem test_startDataWrite :
    started (step (atFrame .cmd 0x13)) = some (.L, 0x13, .csl, [.w .dc .L]) := by decide

theorem test_displayRefresh :
    started (exec .displayRefresh (atFrame .cmd 0x12)) =
      some (.L, 0x12, .csl, [.w .dc .L]) := by decide

theorem test_powerOff :
    started (exec .powerOff (atFrame .cmd 0x02)) = some (.L, 0x02, .csl, [.w .dc .L]) := by decide

theorem test_deepSleep :
    started (exec .deepSleep (atFrame .cmd 0x07)) = some (.L, 0x07, .csl, [.w .dc .L]) := by decide

/-- V7, by the step. -/
theorem test_dataFrame :
    started (step (atFrame .dat 0xA5)) = some (.H, 0xA5, .csl, [.w .dc .H]) := by decide

/-- R69: a code outside the table is sent like any other. -/
theorem test_commandFrameOther :
    started (step (atFrame .cmd 0x08)) = some (.L, 0x08, .csl, [.w .dc .L]) := by decide

/-! ## Micro-operations -/

/-- `uCMD` and `uDAT` arm the framer (R97, R98). -/
theorem test_uCmd :
    got (fun t => (t.arg, t.fmode, t.fstate, t.trace)) (exec (.uCmd .keep 0x04) (atMicro 20)) =
      some (0x04, .cmd, .dc, []) := by decide

theorem test_uDat :
    got (fun t => (t.arg, t.fmode, t.fstate, t.trace)) (exec (.uDat .keep 0x3F) (atMicro 18)) =
      some (0x3F, .dat, .dc, []) := by decide

/-- V10, steps 1 and 3. -/
theorem test_uRst :
    got (fun t => (t.rst, t.pstate, t.upc, t.trace)) (step { atMicro 0 with pstate := .uninit }) =
        some (.H, .resetting, 1, [.w .rst .H]) ∧
    got (fun t => (t.rst, t.upc)) (step { atMicro 2 with rst := .H }) = some (.L, 3) := by decide

/-- V10, steps 4 and 6. -/
theorem test_uDly :
    got (fun t => (t.upc, t.trace)) (step (atMicro 3)) = some (4, [.t 10]) ∧
    got (fun t => (t.upc, t.op, t.status, t.trace)) (step { atMicro 5 with status := 1 }) =
      some (6, .idle, 0, [.t 200]) := by decide

/-- V13, steps 1 to 3, and V12, step 2. -/
theorem test_uWrdy :
    got (fun t => (t.wstate, t.busyIn, t.trace)) (step (atWait .sample none 0 [.L, .H])) =
        some (.poll, [.H], [.s .L]) ∧
    got (fun t => (t.wstate, t.trace)) (step (atWait .poll none 0 [.H])) =
        some (.sample, [.t 20]) ∧
    got (fun t => (t.wstate, t.trace)) (step (atWait .sample none 0 [.H])) =
        some (.final, [.s .H]) ∧
    got (fun t => (t.upc, t.op, t.status, t.trace)) (step (atWait .final none 0 [])) =
        some (8, .idle, 0, [.t 20]) := by decide

/-- V15: the third busy sample under a timeout of 3 gives up; the second does not; a ready third sample
does not count. -/
theorem test_uWrdy_timeout :
    got (fun t => (t.status, t.op, t.upc, t.pollcnt)) (step (atWait .sample (some 3) 2 [.L])) =
        some (1, .idle, 7, 3) ∧
    got (fun t => (t.status, t.wstate, t.pollcnt)) (step (atWait .sample (some 3) 1 [.L])) =
        some (0, .poll, 2) ∧
    got (fun t => (t.status, t.wstate, t.pollcnt)) (step (atWait .sample (some 3) 2 [.H])) =
        some (0, .final, 2) := by decide

/-- R102: `uEND` applies its annotation and returns. -/
theorem test_uEnd :
    got (fun t => (t.pstate, t.status, t.op, t.trace))
        (exec (.uEnd .ready) { atMicro 38 with status := 1 }) =
      some (.ready, 0, .idle, []) := by decide

/-- V17, event 576: the last chip-select release of INITIALIZE returns from the operation. -/
theorem test_return_of_initialize :
    got (fun t => (t.pstate, t.op, t.upc, t.trace))
        (step { atMicro 37 with tstate := .csh, fstate := .xmit, cs := .L }) =
      some (.ready, .idle, 38, [.w .cs .H]) := by decide

/-! ## Placing a word, the ports, the monitor -/

/-- From reset, `withFetchWord` and one step run the row: a request, a frame and ROM words. -/
theorem test_withFetchWord :
    got (fun t => (t.op, t.sr)) (step (State.reset.withFetchWord 11 0x0A5)) =
        some (.transmitByte, 0xA5) ∧
    started (step (State.reset.withFetchWord 9 0x113)) = some (.H, 0x13, .csl, [.w .dc .H]) ∧
    got (fun t => t.trace) (step (State.reset.withFetchWord 14 0x0A01)) = some [.w .rst .H] ∧
    got (fun t => t.trace) (step (State.reset.withFetchWord 16 0x1302)) = some [.t 200] := by decide

/-- R29, R30. -/
theorem test_ports :
    pstatePort { State.reset with pstate := .sleeping } = 4 ∧
    statusPort { State.reset with status := 1 } = some 1 ∧
    statusPort (atByte .setd 0xA5 8 .L .L) = none := by decide

/-- V26 for one byte, by hand: `C(0x13)` is `[(L, 0x13)]`, and a raw byte takes the prior level. -/
theorem test_monitor :
    monitor .L .L .H .H (traceFrame Config.default .cmd 0x13) =
        [⟨some .L, [false, false, false, true, false, false, true, true]⟩] ∧
    (monitor .L .L .H .H (traceX 0x13)).map (fun f => (f.mode, f.value)) = [(some .H, 0x13)] ∧
    monitor .L .L .H .H (traceReset Config.default) = [] := by decide

/-- V2: the rows 0x00, 0xAA and 0x5A. -/
theorem test_level_changes :
    levelChanges .L (levelsWritten .din (traceX 0x00)) = 0 ∧
    levelChanges .L (levelsWritten .din (traceX 0xAA)) = 8 ∧
    levelChanges .H (levelsWritten .din (traceX 0x5A)) = 7 := by decide

/-! ## Witnesses of the statements' hypotheses -/

theorem witness_DecodeEncodeIsIdentity :
    (Instr.commandFrameOther 0xFF).wf = true ∧ (Instr.uDly .sleeping .refresh).wf = true ∧
      (Instr.transmitByte 0xFF).wf = true := by decide

theorem witness_RomWordIsItsEntrysEncoding :
    decodeEntry 0x2500 = .ok ⟨.sleeping, .done⟩ ∧ decodeEntry 0x0000 = .ok ⟨.keep, .cmd 0⟩ := by decide

theorem witness_StepRunsTheDecodedInstruction :
    ((asked 0x6FF).op = .idle ∧ (asked 0x6FF).requests = [0x6FF]) ∧
    ((atByte .csh 0 0 .L .L).op ≠ .idle ∧ (atByte .csh 0 0 .L .L).tstate ≠ .idle) ∧
    ((atFrame .dat 0xFF).op ≠ .idle ∧ (atFrame .dat 0xFF).tstate = .idle ∧
      (atFrame .dat 0xFF).fstate = .dc) ∧
    (isSequencerOp (atMicro 45).op = true ∧ (atMicro 45).tstate = .idle ∧
      (atMicro 45).fstate ≠ .dc ∧ rom[(atMicro 45).upc.toNat]? = some 0x2500 ∧
      decodeMicro 0x2500 = .ok (.uEnd .sleeping)) := by decide

theorem witness_IdleCoreWaits : State.reset.op = .idle ∧ State.reset.requests = [] := by decide

/-- Each phase; the last pulse and the one before it. -/
theorem witness_TransportStepsOfAByte :
    (atByte .csl 0x80 8 .H .L).op ≠ .idle ∧ (atByte .csl 0x80 8 .H .L).tstate = .csl ∧
    (atByte .setd 0x80 8 .L .L).tstate = .setd ∧ (atByte .ckh 0x80 8 .L .L).tstate = .ckh ∧
    ((atByte .ckl 0x80 8 .L .H).tstate = .ckl ∧
      (7 : Fin 9).val + 1 = (atByte .ckl 0x80 8 .L .H).bitcnt.val) ∧
    ((atByte .ckl 0x80 1 .L .H).tstate = .ckl ∧
      (0 : Fin 9).val + 1 = (atByte .ckl 0x80 1 .L .H).bitcnt.val) := by decide

theorem witness_TransportReturn :
    ((atByte .csh 0 0 .L .L).tstate = .csh ∧ (atByte .csh 0 0 .L .L).op = .transmitByte) ∧
    ({ atMicro 37 with tstate := .csh }.tstate = .csh ∧
      { atMicro 37 with tstate := .csh }.op = .initializeOp) := by decide

/-- A state of the invariant in each layer: a byte, a frame, a micro-operation. -/
theorem witness_machineInv_busy :
    (machineInv (atByte .csl 0xA5 8 .H .L) = true ∧ (atByte .csl 0xA5 8 .H .L).op ≠ .idle) ∧
    (machineInv (atFrame .cmd 0x13) = true ∧ (atFrame .cmd 0x13).op ≠ .idle) ∧
    (machineInv (atMicro 22) = true ∧ (atMicro 22).op ≠ .idle) := by decide

theorem witness_AcceptanceEmitsNothing :
    (asked 0x113).op = .idle ∧ (got (fun _ => ()) (step (asked 0x113))).isSome = true := by decide

/-- For TransmitByteAccepted, FramedRequestsAccepted and SequencerRequestsAccepted. -/
theorem witness_accepted : State.reset.op = .idle := by decide

theorem witness_RequestIsHeldWhileBusy :
    (atByte .setd 0xA5 8 .L .L).op ≠ .idle ∧
      (got (fun _ => ()) (step (atByte .setd 0xA5 8 .L .L))).isSome = true := by decide

theorem witness_ReservedOperationIsRefused :
    (asked 0x7FF).op = .idle ∧ (asked 0x7FF).requests = [(7 : BitVec 3) ++ (0xFF : Byte)] := by decide

/-- For FramerStep and FramesStart, at both modes. -/
theorem witness_frame_due :
    ((atFrame .cmd 0x00).op ≠ .idle ∧ (atFrame .cmd 0x00).tstate = .idle ∧
      (atFrame .cmd 0x00).fstate = .dc) ∧
    ((atFrame .dat 0xFF).op ≠ .idle ∧ (atFrame .dat 0xFF).tstate = .idle ∧
      (atFrame .dat 0xFF).fstate = .dc) := by decide

/-- An address of each kind, the first and the last of the ROM among them. -/
theorem witness_EnterByKind :
    romEntry 0 = some ⟨.resetting, .rst .H⟩ ∧ romEntry 1 = some ⟨.keep, .dly .rstPre⟩ ∧
    romEntry 15 = some ⟨.keep, .cmd 0x01⟩ ∧ romEntry 44 = some ⟨.keep, .dat 0xA5⟩ ∧
    romEntry 42 = some ⟨.keep, .wrdy⟩ ∧ romEntry 45 = some ⟨.sleeping, .done⟩ := by decide

theorem witness_CompleteEntersTheNext :
    romEntry (atMicro 14).upc.toNat = some ⟨.configuring, .dly .rstPost⟩ := by decide

theorem witness_ResetAndDelayMicroOps :
    microDue (atMicro 13) = true ∧
      romEntry ((atMicro 13).upc.toNat + 1) = some ⟨.configuring, .dly .rstPost⟩ := by decide

/-- Each of the four outcomes of a sample; the timeout one below its value and at it. -/
theorem witness_BusyWaitSample :
    (microDue (atWait .sample none 0 [.H]) = true ∧ (atWait .sample none 0 [.H]).wstate = .sample ∧
      busyLevel (atWait .sample none 0 [.H]) = .H) ∧
    (busyLevel (atWait .sample none 0 [.L]) = .L ∧
      (atWait .sample none 0 [.L]).cfg.busyTimeout = none) ∧
    (busyLevel (atWait .sample (some 3) 1 [.L]) = .L ∧
      (atWait .sample (some 3) 1 [.L]).cfg.busyTimeout = some 3 ∧
      (atWait .sample (some 3) 1 [.L]).pollcnt + 1 ≠ 3) ∧
    (busyLevel (atWait .sample (some 3) 2 [.L]) = .L ∧
      (atWait .sample (some 3) 2 [.L]).cfg.busyTimeout = some 3 ∧
      (atWait .sample (some 3) 2 [.L]).pollcnt + 1 = 3) := by decide

theorem witness_BusyWaitDelays :
    (microDue (atWait .poll none 0 []) = true ∧ (atWait .poll none 0 []).wstate = .poll) ∧
    (microDue (atWait .final none 0 []) = true ∧ (atWait .final none 0 []).wstate = .final ∧
      romEntry ((atWait .final none 0 []).upc.toNat + 1) = some ⟨.keep, .done⟩) := by decide

theorem witness_FrameAndEndMicroOps : microDue (atMicro 38) = true := by decide

/-- A step with an event, a step without, and one that takes no sample: for PinsFollowTheTrace,
EnvironmentIsOnlyConsumed and BusyIsIgnoredOutsideSamples; and one that takes a sample. -/
theorem witness_steps :
    (got (fun t => t.trace.length) (step (atMicro 0)) = some 1 ∧ samplesNext (atMicro 0) = false) ∧
    (got (fun t => t.trace.length) (step (asked 0x300)) = some 0 ∧
      samplesNext (asked 0x300) = false) ∧
    (got (fun t => t.trace.length) (step (atWait .sample none 0 [.H])) = some 1 ∧
      samplesNext (atWait .sample none 0 [.H]) = true) := by decide

theorem witness_ModeSelectIsStable :
    (atByte .csh 0 0 .L .L).op ≠ .idle ∧ (atByte .csh 0 0 .L .L).tstate ≠ .idle ∧
      (got (fun _ => ()) (step (atByte .csh 0 0 .L .L))).isSome = true := by decide

theorem witness_OnlyResetMicroOpDrivesReset :
    got (fun t => decide (t.rst ≠ (atMicro 4).rst)) (step (atMicro 4)) = some true := by decide

/-- The first and the last of the five places. -/
theorem witness_PanelStateChangesAtFivePlaces :
    (machineInv { atMicro 0 with pstate := .uninit } = true ∧
      got (fun t => t.pstate) (step { atMicro 0 with pstate := .uninit }) = some .resetting) ∧
    (machineInv
        { atMicro 44 with
          tstate := .csh, fstate := .xmit, cs := .L, dc := .H, fmode := .dat, arg := 0xA5 } = true ∧
      got (fun t => t.pstate)
          (step
            { atMicro 44 with
              tstate := .csh, fstate := .xmit, cs := .L, dc := .H, fmode := .dat, arg := 0xA5 }) =
        some .sleeping) := by decide

/-- A return that clears a timeout, and a timeout. -/
theorem witness_StatusIsWrittenAtReturn :
    got (fun t => t.status) (step { atMicro 5 with status := 1 }) = some 0 ∧
    got (fun t => t.status) (step (atWait .sample (some 1) 0 [.L])) = some 1 := by decide

/-- For StepKeepsTheInvariant and OnlyTheReservedCodeStops: a step that goes on, and a refusal. -/
theorem witness_StepKeepsTheInvariant :
    (machineInv (asked 0x500) = true ∧
      (got (fun _ => ()) (step (asked 0x500))).isSome = true) ∧
    (machineInv (asked 0x700) = true ∧ step (asked 0x700) = .refused .reservedOperationCode) :=
  ⟨by decide, by decide, rfl⟩

/-- The unspecified registers at other values than those of `State.reset`. -/
theorem witness_AfterResetMeetsTheInvariant :
    afterReset { State.reset with din := .H, dc := .H, rst := .H, sr := 0xFF, upc := 63 } = true := by
  decide

theorem witness_WellFormedProgramNeverStops :
    machineInv (asked 0x6A5) = true ∧ programWf (asked 0x6A5) = true := by decide

theorem witness_TransportIsIdleWithin26Steps :
    (machineInv (atByte .csl 0xA5 8 .H .L) = true ∧ (atByte .csl 0xA5 8 .H .L).tstate ≠ .idle) ∧
    (machineInv (atByte .csh 0x00 0 .L .L) = true ∧ (atByte .csh 0x00 0 .L .L).tstate ≠ .idle) := by
  decide

/-- For TransmitByteRun and FramedByteRun, from the reset state. -/
theorem witness_byte_runs :
    (asked 0x0A5).op = .idle ∧ (asked 0x0A5).fstate = .idle ∧ (asked 0x0A5).tstate = .idle ∧
    (asked 0x0A5).requests = [requestWord 0 0xA5] ∧ (asked 0x113).requests = [requestWord 1 0x13] ∧
    (asked 0x2FF).requests = [requestWord 2 0xFF] := by decide

/-- The reset state with a request, the samples to come and a timeout: for the runs of the sequencer
operations. -/
def waiting (w : RequestWord) (n : Option Nat) (ls : List Level) : State :=
  { asked w with cfg := { Config.default with busyTimeout := n }, busyIn := ls }

/-- For HardwareResetRun, WaitUntilReadyRun, InitializeRun and RefreshAndSleepRun, with `j` 0 and 2. -/
theorem witness_sequencer_runs :
    (waiting 0x300 none []).op = .idle ∧ (waiting 0x300 none []).tstate = .idle ∧
    (waiting 0x300 none []).fstate = .idle ∧ (waiting 0x300 none []).requests = [requestWord 3 0] ∧
    (waiting 0x400 none [.H]).cfg.busyTimeout = none ∧
    (waiting 0x400 none [.H]).requests = [requestWord 4 0] ∧
    (waiting 0x400 none [.H]).busyIn = List.replicate 0 .L ++ .H :: [] ∧
    (waiting 0x500 none [.L, .L, .H, .L]).requests = [requestWord 5 0] ∧
    (waiting 0x500 none [.L, .L, .H, .L]).busyIn = List.replicate 2 .L ++ .H :: [.L] ∧
    (waiting 0x600 none [.L, .L, .H]).requests = [requestWord 6 0] := by decide

/-- For WaitUntilReadyMayNeverReturn. -/
theorem witness_WaitUntilReadyMayNeverReturn :
    (waiting 0x400 none [.L, .L]).cfg.busyTimeout = none ∧
    (waiting 0x400 none [.L, .L]).requests = [requestWord 4 0] ∧
    (waiting 0x400 none [.L, .L]).busyIn = List.replicate 2 .L ++ [] := by decide

/-- For WaitUntilReadyTimesOut and SequencesTimeOut, with a timeout of 1 and of 3. -/
theorem witness_timeouts :
    ((waiting 0x400 (some 1) [.L]).op = .idle ∧ (waiting 0x400 (some 1) [.L]).tstate = .idle ∧
      (waiting 0x400 (some 1) [.L]).fstate = .idle ∧
      (waiting 0x400 (some 1) [.L]).cfg.busyTimeout = some (0 + 1) ∧
      (waiting 0x400 (some 1) [.L]).busyIn = List.replicate (0 + 1) .L ++ []) ∧
    ((waiting 0x500 (some 3) [.L, .L, .L]).cfg.busyTimeout = some (2 + 1) ∧
      (waiting 0x500 (some 3) [.L, .L, .L]).requests = [requestWord 5 0] ∧
      (waiting 0x500 (some 3) [.L, .L, .L]).busyIn = List.replicate (2 + 1) .L ++ []) ∧
    (waiting 0x600 (some 3) [.L, .L, .L]).requests = [requestWord 6 0] := by decide

/-- The state in which a command's frame is due, for each of the eleven. -/
def atCommand (p : PanelCommand) : State :=
  { atMicro p.addr with arg := p.code, fmode := .cmd, fstate := .dc }

theorem witness_PanelCommandsSendTheirFrames :
    panelCommands.length = 11 ∧ ∀ p ∈ panelCommands,
      machineInv (atCommand p) = true ∧ (atCommand p).upc.toNat = p.addr ∧
        (atCommand p).op = programOf p.addr ∧ (atCommand p).fstate = .dc := by decide

end Sys2Proof.Tests
end

/-! # What is due

The layers of `step` that `Laws/Step.lean` leaves out, and the statements about the choice of layer. -/

namespace Sys2Proof.Machine

/-- A byte operation with neither a transmission nor a frame in progress has no step due. -/
theorem step_noStepDue (s : State) (ho : s.op ≠ .idle) (ht : s.tstate = .idle) (hf : s.fstate ≠ .dc)
    (hq : isSequencerOp s.op = false) : step s = .fault .noStepDue := by
  simp [step, due, ho, ht, hf, dueMicro, hq]

/-- Outside the ROM the sequencer faults. -/
theorem step_romAddressAbsent (s : State) (ht : s.tstate = .idle) (hf : s.fstate ≠ .dc)
    (hq : isSequencerOp s.op = true) (he : romEntry s.upc.toNat = none) :
    step s = .fault .romAddressAbsent := by
  simp [step, due, op_ne_idle hq, ht, hf, dueMicro, hq, he]

/-- Settles O10: nothing is due in an idle core without a request. -/
theorem idleCoreWaits : Obligations.IdleCoreWaits := by
  intro s ho hr
  simp [step, due, ho, dueRequest, hr]

/-- A ROM word that decodes is the entry at its address (R42, R65). -/
theorem exists_romEntry_of_decodeMicro {a : Nat} {w : MicroWord} {i : Instr}
    (hw : rom[a]? = some w) (hi : decodeMicro w = .ok i) :
    ∃ e, romEntry a = some e ∧ e.toInstr = i := by
  cases hd : decodeEntry w with
  | error r => simp [decodeMicro, hd, Except.map] at hi
  | ok e =>
    refine ⟨e, by simp [romEntry, hw, hd], ?_⟩
    simpa [decodeMicro, hd, Except.map] using hi

/-- Settles O9: one lemma for each layer. -/
theorem stepRunsTheDecodedInstruction : Obligations.StepRunsTheDecodedInstruction := by
  refine ⟨step_request, step_transport, step_frame, ?_⟩
  intro s w i ho ht hf hw hi
  obtain ⟨e, he, rfl⟩ := exists_romEntry_of_decodeMicro hw hi
  exact step_micro s e ho ht hf he

end Sys2Proof.Machine

/-! # One step, case by case

`StepsTo s t` lists what a step that goes on can do, with what made it due (R39). The statements about
a single step are case analyses of it, so no proof below splits `step` again. -/

namespace Sys2Proof.Machine

/-! ## The relation -/

/-- The micro-operations that are performed when they are entered and have no step of their own
(R97, R98, R102). -/
def hasNoStep (e : RomEntry) : Bool :=
  match e.op with
  | .cmd _ | .dat _ | .done => true
  | .rst _ | .dly _ | .wrdy => false

/-- `u` is `s` after the last event of the ROM entry `e`, which completes next: the release of
chip-select (R79), a write of the reset line (R99), a delay (R100) or the one extra wait (R101). -/
inductive LastEvent (s : State) : RomEntry → State → Prop
  | release (e : RomEntry) (ht : s.tstate = .csh) : LastEvent s e (releaseCs s)
  | reset (p : Annot) (l : Level) (hm : microDue s = true) :
      LastEvent s ⟨p, .rst l⟩ (pinWrite .rst l s)
  | pause (p : Annot) (d : DelaySel) (hm : microDue s = true) :
      LastEvent s ⟨p, .dly d⟩ (delay (delayOf s.cfg d) s)
  | extraWait (p : Annot) (hm : microDue s = true) (hw : s.wstate = .final) :
      LastEvent s ⟨p, .wrdy⟩ (delay s.cfg.nPoll s)

/-- What a step that goes on does (R39). -/
inductive StepsTo (s : State) : State → Prop
  | waits (ho : s.op = .idle) (hr : s.requests = []) : StepsTo s s
  | acceptsByte (v : Byte) (w : RequestWord) (ws : List RequestWord) (ho : s.op = .idle)
      (hr : s.requests = w :: ws) :
      StepsTo s { loadByte v { s with requests := ws } with op := .transmitByte }
  | acceptsFrame (m : FrameMode) (v : Byte) (w : RequestWord) (ws : List RequestWord)
      (ho : s.op = .idle) (hr : s.requests = w :: ws) :
      StepsTo s { armFrame m v { s with requests := ws } with op := frameOp m .idle }
  | acceptsProgram (o : Op) (a : Nat) (e : RomEntry) (w : RequestWord) (ws : List RequestWord)
      (ho : s.op = .idle) (hr : s.requests = w :: ws) (ha : entryAddress o = some a)
      (he : romEntry a = some e) :
      StepsTo s (startMicro e { s with requests := ws, op := o, upc := BitVec.ofNat 6 a })
  | assertsCs (ho : s.op ≠ .idle) (ht : s.tstate = .csl) : StepsTo s (stepAssertCs s)
  | setsData (ho : s.op ≠ .idle) (ht : s.tstate = .setd) : StepsTo s (stepSetData s)
  | clockHigh (ho : s.op ≠ .idle) (ht : s.tstate = .ckh) : StepsTo s (stepClockHigh s)
  | clockLow (ho : s.op ≠ .idle) (ht : s.tstate = .ckl) : StepsTo s (stepClockLow s)
  | returnsByte (hb : isByteOp s.op = true) (ht : s.tstate = .csh) :
      StepsTo s { releaseCs s with op := .idle }
  | startsFrame (ho : s.op ≠ .idle) (ht : s.tstate = .idle) (hf : s.fstate = .dc) :
      StepsTo s
        { loadByte s.arg (pinWrite .dc (dcLevel s.cfg s.fmode) s) with fstate := .xmit }
  | completes (e : RomEntry) (u t : State) (ho : isSequencerOp s.op = true)
      (he : romEntry s.upc.toNat = some e) (hu : LastEvent s e u)
      (hc : completeWith e.annot u = .next t) : StepsTo s t
  | samples (p : Annot) (hm : microDue s = true) (he : romEntry s.upc.toNat = some ⟨p, .wrdy⟩)
      (hw : s.wstate = .sample) : StepsTo s (afterSample (busyLevel s) (pinRead s))
  | polls (p : Annot) (hm : microDue s = true) (he : romEntry s.upc.toNat = some ⟨p, .wrdy⟩)
      (hw : s.wstate = .poll) : StepsTo s { delay s.cfg.nPoll s with wstate := .sample }
  | starts (e : RomEntry) (hm : microDue s = true) (he : romEntry s.upc.toNat = some e)
      (hk : hasNoStep e = true) : StepsTo s (startMicro e s)

/-! ## Every step that goes on is one of these -/

/-- A busy operation that is no byte operation is a sequencer operation (R26). -/
theorem isSequencerOp_of_busy {o : Op} (ho : o ≠ .idle) (hb : isByteOp o = false) :
    isSequencerOp o = true := by
  cases o <;> simp_all [isByteOp, isSequencerOp]

/-- The acceptance of a sequencer operation enters its program (R96). -/
theorem stepsTo_of_accept {s t : State} {o : Op} {a : Nat} {w : RequestWord} {ws : List RequestWord}
    (ho : s.op = .idle) (hr : s.requests = w :: ws) (ha : entryAddress o = some a)
    (h : accept o a { s with requests := ws } = .next t) : StepsTo s t := by
  rw [accept, whenIdle_pos _ (by exact ho)] at h
  obtain ⟨e, he, rfl⟩ := enter_next h
  exact .acceptsProgram o a e w ws ho hr ha he

/-- The acceptance of a request (R26). -/
theorem stepsTo_of_request {s t : State} {w : RequestWord} {ws : List RequestWord}
    (ho : s.op = .idle) (hr : s.requests = w :: ws)
    (h : exec (decodeRequest w) { s with requests := ws } = .next t) : StepsTo s t := by
  have hi : ({ s with requests := ws } : State).op = .idle := ho
  simp only [decodeRequest] at h
  split at h
  · rw [exec, execTransmitByte, whenIdle_pos _ hi] at h
    cases h; exact .acceptsByte _ w ws ho hr
  · rw [exec, execSendCommand, whenIdle_pos _ hi] at h
    cases h; exact .acceptsFrame .cmd _ w ws ho hr
  · rw [exec, execSendData, whenIdle_pos _ hi] at h
    cases h; exact .acceptsFrame .dat _ w ws ho hr
  · exact stepsTo_of_accept (o := .hardwareReset) ho hr rfl h
  · exact stepsTo_of_accept (o := .waitUntilReady) ho hr rfl h
  · exact stepsTo_of_accept (o := .initializeOp) ho hr rfl h
  · exact stepsTo_of_accept (o := .refreshAndSleep) ho hr rfl h
  · cases h

/-- A step of the transport (R75 to R79). -/
theorem stepsTo_of_transport {s t : State} (ho : s.op ≠ .idle) (h : transportStep s = .next t) :
    StepsTo s t := by
  unfold transportStep at h
  cases ht : s.tstate <;> rw [ht] at h
  case idle => cases h
  case csl => cases h; exact .assertsCs ho ht
  case setd => cases h; exact .setsData ho ht
  case ckh => cases h; exact .clockHigh ho ht
  case ckl => cases h; exact .clockLow ho ht
  case csh =>
    simp only [stepReleaseCs] at h
    split at h
    next hb => cases h; exact .returnsByte hb ht
    next hb =>
      have hq := isSequencerOp_of_busy ho (by simpa using hb)
      cases he : romEntry s.upc.toNat with
      | none => simp [complete, releaseCs, he] at h
      | some e =>
        rw [complete_some (releaseCs s) (by simpa [releaseCs] using he)] at h
        exact .completes e _ t hq he (.release e ht) h

/-- A step of the framer (R90). -/
theorem stepsTo_of_frame {s t : State} (ho : s.op ≠ .idle) (ht : s.tstate = .idle)
    (hf : s.fstate = .dc) (h : exec (decodeFrame (frameWord s.fmode s.arg)) s = .next t) :
    StepsTo s t := by
  rw [decodeFrame_frameWord, exec_frameInstr, sendFrame,
    whenFrameDue_pos _ ((frameDue_iff s).2 ⟨ht, hf⟩)] at h
  cases h
  exact .startsFrame ho ht hf

/-- A step of the sequencer (R99 to R102). -/
theorem stepsTo_of_micro {s t : State} {e : RomEntry} (hm : microDue s = true)
    (he : romEntry s.upc.toNat = some e) (h : exec e.toInstr s = .next t) : StepsTo s t := by
  obtain ⟨-, -, ho⟩ := (microDue_iff s).1 hm
  obtain ⟨p, o⟩ := e
  cases o with
  | cmd v =>
    rw [RomEntry.toInstr, exec, execUCmd, whenMicroDue_pos _ hm] at h
    cases h; exact .starts _ hm he rfl
  | dat v =>
    rw [RomEntry.toInstr, exec, execUDat, whenMicroDue_pos _ hm] at h
    cases h; exact .starts _ hm he rfl
  | rst l =>
    rw [RomEntry.toInstr, exec, execURst, whenMicroDue_pos _ hm] at h
    exact .completes _ _ t ho he (.reset p l hm) h
  | dly d =>
    rw [RomEntry.toInstr, exec, execUDly, whenMicroDue_pos _ hm] at h
    exact .completes _ _ t ho he (.pause p d hm) h
  | wrdy =>
    rw [RomEntry.toInstr, exec, execUWrdy, whenMicroDue_pos _ hm] at h
    cases hw : s.wstate <;> rw [hw] at h
    case sample => cases h; exact .samples p hm he hw
    case poll => cases h; exact .polls p hm he hw
    case final => exact .completes _ _ t ho he (.extraWait p hm hw) h
  | done =>
    rw [RomEntry.toInstr, exec, execUEnd, whenMicroDue_pos _ hm] at h
    cases h; exact .starts _ hm he rfl

/-- Every step that goes on does one of the things `StepsTo` lists (R39). -/
theorem stepsTo_of_step {s t : State} (h : step s = .next t) : StepsTo s t := by
  obtain ⟨ho, hr, hs⟩ | ⟨w, ws, ho, hr, hs⟩ | ⟨ho, -, hs⟩ | ⟨ho, ht, hf, hs⟩ |
    ⟨e, ho, ht, hf, he, hs⟩ | ⟨r, hs⟩ := step_cases s <;> rw [hs] at h
  · cases h; exact .waits ho hr
  · exact stepsTo_of_request ho hr h
  · exact stepsTo_of_transport ho h
  · exact stepsTo_of_frame ho ht hf h
  · exact stepsTo_of_micro ((microDue_iff s).2 ⟨ht, hf, ho⟩) he h
  · cases h

end Sys2Proof.Machine

/-! # Every step keeps the invariant -/

namespace Sys2Proof.Machine

/-! ## The invariant of a busy core -/

section Invariant

variable {s : State}

/-- What the layers of a sequencer operation do is what the entry at `UPC` asks (R27, R39). -/
theorem layersOk_of_sequencer (ho : isSequencerOp s.op = true) : layersOk s = microOk s := by
  cases hop : s.op <;> simp_all [isSequencerOp, layersOk]

/-- In a state of the invariant a sequencer operation is at an entry of its own program (R27, R42). -/
theorem exists_romEntry_of_inv (hs : machineInv s = true) (ho : isSequencerOp s.op = true) :
    ∃ e, romEntry s.upc.toNat = some e ∧ isDone e = false ∧ programOf s.upc.toNat = s.op := by
  obtain ⟨-, -, -, -, -, hl, -, -⟩ := (machineInv_iff s).1 hs
  rw [layersOk_of_sequencer ho, microOk] at hl
  obtain ⟨hp, he⟩ := (Bool.and_eq_true _ _).mp hl
  cases hr : romEntry s.upc.toNat with
  | none => simp [hr] at he
  | some e =>
    refine ⟨e, rfl, ?_, by simpa using hp⟩
    obtain ⟨p, o⟩ := e
    cases o <;> simp_all [isDone]

/-- When a micro-operation is due, the one at `UPC` has a step of its own and the framer is idle. -/
theorem hasNoStep_of_inv {e : RomEntry} (hs : machineInv s = true) (hm : microDue s = true)
    (he : romEntry s.upc.toNat = some e) : hasNoStep e = false ∧ s.fstate = .idle := by
  obtain ⟨ht, hf, ho⟩ := (microDue_iff s).1 hm
  obtain ⟨-, -, -, -, -, hl, -, -⟩ := (machineInv_iff s).1 hs
  rw [layersOk_of_sequencer ho, microOk] at hl
  obtain ⟨p, o⟩ := e
  cases o <;> simp_all [hasNoStep, framePhase, layersIdle]

/-- While a byte of the sequencer is being sent, the framer waits for the transport (R90). -/
theorem fstate_of_inv (hs : machineInv s = true) (ho : isSequencerOp s.op = true)
    (ht : s.tstate ≠ .idle) : s.fstate = .xmit := by
  obtain ⟨e, he, -, -⟩ := exists_romEntry_of_inv hs ho
  obtain ⟨-, -, -, -, -, hl, -, -⟩ := (machineInv_iff s).1 hs
  rw [layersOk_of_sequencer ho, microOk] at hl
  obtain ⟨p, o⟩ := e
  cases o <;> simp_all [framePhase, layersIdle]

/-! ## The steps of a busy core -/

/-- A step inside a byte keeps what the layers, `PSTATE` and `STATUS` say; what is left to show is the
transport's own (R75 to R78). -/
theorem inv_insideByte {t : State} (hs : machineInv s = true) (ht : s.tstate ≠ .idle)
    (ht' : t.tstate ≠ .idle)
    (keeps : t = { s with
      sck := t.sck, din := t.din, cs := t.cs, sr := t.sr, bitcnt := t.bitcnt, tstate := t.tstate
      trace := t.trace })
    (hcs : csOk t = true) (hsck : sckOk t = true) (hcount : countOk t = true)
    (hdin : dinOk t = true) (hframe : frameOk t = true) : machineInv t = true := by
  obtain ⟨-, -, -, -, -, hl, hp, hst⟩ := (machineInv_iff s).1 hs
  rw [machineInv_iff]
  refine ⟨hcs, hsck, hcount, hdin, hframe, ?_, ?_, ?_⟩
  · rw [layersOk_congr s t (by rw [keeps]) (by rw [keeps]) (by rw [keeps]) (by rw [keeps])
      (by rw [keeps]) ht ht', hl]
  · rw [keeps]; exact hp
  · rw [keeps]; exact hst

theorem inv_stepAssertCs (hs : machineInv s = true) (ht : s.tstate = .csl) :
    machineInv (stepAssertCs s) = true := by
  obtain ⟨hcs, hsck, hcount, hdin, hframe, -, -, -⟩ := (machineInv_iff s).1 hs
  refine inv_insideByte hs (by simp [ht]) (by simp [stepAssertCs]) rfl ?_ ?_ ?_ ?_ ?_
  · simp [csOk, stepAssertCs, inWindow]
  · simpa [sckOk, stepAssertCs, ht] using hsck
  · have : s.bitcnt = 8 := by simpa [countOk, ht] using hcount
    simp [countOk, stepAssertCs, this]
  · simp [dinOk, stepAssertCs]
  · simpa [frameOk, stepAssertCs] using hframe

theorem inv_stepSetData (hs : machineInv s = true) (ht : s.tstate = .setd) :
    machineInv (stepSetData s) = true := by
  obtain ⟨hcs, hsck, hcount, hdin, hframe, -, -, -⟩ := (machineInv_iff s).1 hs
  refine inv_insideByte hs (by simp [ht]) (by simp [stepSetData]) rfl ?_ ?_ ?_ ?_ ?_
  · simpa [csOk, stepSetData, inWindow, ht] using hcs
  · simpa [sckOk, stepSetData, ht] using hsck
  · simpa [countOk, stepSetData, ht] using hcount
  · simp [dinOk, stepSetData]
  · simpa [frameOk, stepSetData] using hframe

theorem inv_stepClockHigh (hs : machineInv s = true) (ht : s.tstate = .ckh) :
    machineInv (stepClockHigh s) = true := by
  obtain ⟨hcs, hsck, hcount, hdin, hframe, -, -, -⟩ := (machineInv_iff s).1 hs
  refine inv_insideByte hs (by simp [ht]) (by simp [stepClockHigh]) rfl ?_ ?_ ?_ ?_ ?_
  · simpa [csOk, stepClockHigh, inWindow, ht] using hcs
  · simp [sckOk, stepClockHigh]
  · simpa [countOk, stepClockHigh, ht] using hcount
  · simpa [dinOk, stepClockHigh, ht] using hdin
  · simpa [frameOk, stepClockHigh] using hframe

/-- One more shift is the shift of one bit fewer to send (R78, R87). -/
theorem shiftLeft_shifted (v : Byte) {n : Fin 9} (hn : n ≠ 0) :
    shiftLeft (v <<< (8 - n.val)) = v <<< (8 - (countDown n).val) := by
  have hpos : n.val ≠ 0 := fun h => hn (Fin.ext h)
  have hle : n.val < 9 := n.isLt
  rw [shiftLeft, ← BitVec.shiftLeft_add]
  congr 1
  simp only [countDown]
  omega

theorem inv_stepClockLow (hs : machineInv s = true) (ht : s.tstate = .ckl) :
    machineInv (stepClockLow s) = true := by
  obtain ⟨hcs, hsck, hcount, hdin, hframe, -, -, -⟩ := (machineInv_iff s).1 hs
  have hn : s.bitcnt ≠ 0 := by simpa [countOk, ht] using hcount
  have htt : (stepClockLow s).tstate = .csh ∨ (stepClockLow s).tstate = .setd := by
    simp only [stepClockLow]; split <;> simp
  refine inv_insideByte hs (by simp [ht]) (by rcases htt with h | h <;> simp [h]) rfl ?_ ?_ ?_ ?_ ?_
  · have : s.cs = .L := by simpa [csOk, inWindow, ht] using hcs
    rcases htt with h | h <;> rw [csOk, h] <;> simp [stepClockLow, inWindow, this]
  · rcases htt with h | h <;> rw [sckOk, h] <;> simp [stepClockLow]
  · simp only [countOk, stepClockLow, noBitsLeft]
    by_cases h0 : countDown s.bitcnt = 0 <;> simp [h0]
  · rcases htt with h | h <;> rw [dinOk, h]
  · cases hf : s.fstate
    case xmit =>
      obtain ⟨hdc, hsr⟩ : s.dc = dcLevel s.cfg s.fmode ∧ s.sr = s.arg <<< (8 - s.bitcnt.val) := by
        simpa [frameOk, hf] using hframe
      simp [frameOk, stepClockLow, hf, hdc, hsr, shiftLeft_shifted _ hn]
    all_goals simp [frameOk, stepClockLow, hf]

/-- The release of chip-select leaves the transport as it is outside a window (R79). -/
theorem pinsOk_releaseCs (hs : machineInv s = true) (ht : s.tstate = .csh) :
    csOk (releaseCs s) = true ∧ sckOk (releaseCs s) = true ∧ countOk (releaseCs s) = true ∧
      dinOk (releaseCs s) = true := by
  obtain ⟨-, hsck, hcount, -, -, -, -, -⟩ := (machineInv_iff s).1 hs
  refine ⟨?_, ?_, ?_, ?_⟩
  · simp [csOk, releaseCs, inWindow]
  · simpa [sckOk, releaseCs, ht] using hsck
  · simpa [countOk, releaseCs, ht] using hcount
  · simp [dinOk, releaseCs]

theorem inv_returnsByte (hs : machineInv s = true) (hb : isByteOp s.op = true)
    (ht : s.tstate = .csh) : machineInv { releaseCs s with op := .idle } = true := by
  obtain ⟨hcs, hsck, hcount, hdin⟩ := pinsOk_releaseCs hs ht
  obtain ⟨-, -, -, -, -, hl, -, hst⟩ := (machineInv_iff s).1 hs
  have hf : framerReturn s.fstate = .idle := by
    cases hop : s.op <;> cases hfs : s.fstate <;>
      simp_all [isByteOp, layersOk, framePhase, framerReturn]
  rw [machineInv_iff]
  refine ⟨hcs, hsck, hcount, hdin, ?_, ?_, rfl, ?_⟩
  · simp [frameOk, releaseCs, hf]
  · simp [layersOk, layersIdle, releaseCs, hf]
  · simpa [statusOk, releaseCs] using hst

theorem inv_startsFrame (hs : machineInv s = true) (ho : s.op ≠ .idle) (ht : s.tstate = .idle)
    (hf : s.fstate = .dc) :
    machineInv
      { loadByte s.arg (pinWrite .dc (dcLevel s.cfg s.fmode) s) with fstate := .xmit } = true := by
  obtain ⟨hcs, hsck, hcount, hdin, hframe, hl, hp, hst⟩ := (machineInv_iff s).1 hs
  rw [machineInv_iff]
  refine ⟨?_, ?_, ?_, ?_, ?_, ?_, ?_, ?_⟩
  · simpa [csOk, inWindow, ht] using hcs
  · simpa [sckOk, ht] using hsck
  · simp [countOk]
  · simp [dinOk]
  · simp [frameOk]
  · cases hop : s.op <;> simp_all [layersOk, microOk, framePhase, layersIdle]
  · simpa [pstateOk] using hp
  · simpa [statusOk] using hst

/-- A micro-operation that writes at most the reset line completes in a state of the invariant
(R99 to R101). -/
theorem inv_completesMicro {e : RomEntry} {u : State} (hs : machineInv s = true)
    (hm : microDue s = true) (he : romEntry s.upc.toNat = some e)
    (keeps : u = { s with rst := u.rst, trace := u.trace }) :
    ∃ t, completeWith e.annot u = .next t ∧ machineInv t = true := by
  obtain ⟨ht, -, ho⟩ := (microDue_iff s).1 hm
  obtain ⟨-, hf⟩ := hasNoStep_of_inv hs hm he
  obtain ⟨e', he', hd, hprog⟩ := exists_romEntry_of_inv hs ho
  cases he.symm.trans he'
  obtain ⟨hcs, hsck, hcount, hdin, -, -, hp, hst⟩ := (machineInv_iff s).1 hs
  rw [keeps]
  exact inv_complete { s with rst := u.rst, trace := u.trace } e he hd hprog hcs hsck hcount hdin
    hf ht hp hst

/-- The byte of a `uCMD` or `uDAT` completes in a state of the invariant (R79). -/
theorem inv_completesByte {e : RomEntry} (hs : machineInv s = true)
    (ho : isSequencerOp s.op = true) (he : romEntry s.upc.toNat = some e) (ht : s.tstate = .csh) :
    ∃ t, completeWith e.annot (releaseCs s) = .next t ∧ machineInv t = true := by
  obtain ⟨e', he', hd, hprog⟩ := exists_romEntry_of_inv hs ho
  cases he.symm.trans he'
  obtain ⟨-, -, -, -, -, -, hp, hst⟩ := (machineInv_iff s).1 hs
  obtain ⟨hcs, hsck, hcount, hdin⟩ := pinsOk_releaseCs hs ht
  have hf := fstate_of_inv hs ho (by simp [ht])
  exact inv_complete (releaseCs s) e he hd hprog hcs hsck hcount hdin
    (by simp [releaseCs, hf, framerReturn]) rfl hp hst

/-- After its last event an entry completes in a state of the invariant (R96). -/
theorem inv_completes {e : RomEntry} {u t : State} (hs : machineInv s = true)
    (ho : isSequencerOp s.op = true) (he : romEntry s.upc.toNat = some e) (hu : LastEvent s e u)
    (hc : completeWith e.annot u = .next t) : machineInv t = true := by
  have hgo : ∃ t', completeWith e.annot u = .next t' ∧ machineInv t' = true := by
    cases hu with
    | release _ ht => exact inv_completesByte hs ho he ht
    | reset _ _ hm => exact inv_completesMicro hs hm he rfl
    | pause _ _ hm => exact inv_completesMicro hs hm he rfl
    | extraWait _ hm _ => exact inv_completesMicro hs hm he rfl
  obtain ⟨t', h, hinv⟩ := hgo
  cases h.symm.trans hc
  exact hinv

/-- A step of the busy wait that stays in it keeps the invariant: it changes `WSTATE`, the count and the
environment only (R101). -/
theorem inv_keepsWaiting {w : WState} {n m : Nat} {ls : List Level} {es : List Event}
    (hs : machineInv s = true) :
    machineInv { s with wstate := w, pollcnt := n, busyIn := ls, sampleNo := m, trace := es } = true :=
  hs

/-- The outcomes of a sample: the wait goes on, or a configured timeout gives up (R101, R139). -/
theorem afterSample_cases (l : Level) (u : State) :
    (∃ w n, afterSample l u = { u with wstate := w, pollcnt := n }) ∨
      (u.cfg.busyTimeout ≠ none ∧ ∃ n, afterSample l u = abandonWait { u with pollcnt := n }) := by
  unfold afterSample
  split
  · exact .inl ⟨_, _, rfl⟩
  · split
    · exact .inl ⟨_, _, rfl⟩
    next n hn =>
      split
      · exact .inr ⟨by simp [hn], _, rfl⟩
      · exact .inl ⟨_, _, rfl⟩

theorem inv_samples (hs : machineInv s = true) (hm : microDue s = true) {p : Annot}
    (he : romEntry s.upc.toNat = some ⟨p, .wrdy⟩) :
    machineInv (afterSample (busyLevel s) (pinRead s)) = true := by
  obtain ⟨w, n, h⟩ | ⟨hto, n, h⟩ := afterSample_cases (busyLevel s) (pinRead s)
  · rw [h]; exact inv_keepsWaiting hs
  · obtain ⟨-, hf⟩ := hasNoStep_of_inv hs hm he
    obtain ⟨ht, -, -⟩ := (microDue_iff s).1 hm
    obtain ⟨hcs, hsck, hcount, hdin, hframe, -, -, -⟩ := (machineInv_iff s).1 hs
    rw [h, machineInv_iff]
    refine ⟨hcs, hsck, hcount, hdin, hframe, ?_, rfl, ?_⟩
    · simp [layersOk, layersIdle, ht, hf]
    · have : s.cfg.busyTimeout ≠ none := hto
      simp [statusOk, statusTimeout, this]

/-! ## Acceptance -/

/-- The layers of an idle core in a state of the invariant. -/
theorem layersIdle_of_inv (hs : machineInv s = true) (ho : s.op = .idle) :
    s.tstate = .idle ∧ s.fstate = .idle := by
  obtain ⟨-, -, -, -, -, hl, -, -⟩ := (machineInv_iff s).1 hs
  simpa [layersOk, ho, layersIdle] using hl

theorem inv_acceptsByte (hs : machineInv s = true) (ho : s.op = .idle) (v : Byte)
    (ws : List RequestWord) :
    machineInv { loadByte v { s with requests := ws } with op := .transmitByte } = true := by
  obtain ⟨ht, hf⟩ := layersIdle_of_inv hs ho
  obtain ⟨hcs, hsck, -, -, -, -, -, hst⟩ := (machineInv_iff s).1 hs
  rw [machineInv_iff]
  refine ⟨?_, ?_, ?_, ?_, ?_, ?_, rfl, hst⟩
  · simpa [csOk, inWindow, ht] using hcs
  · simpa [sckOk, ht] using hsck
  · simp [countOk]
  · simp [dinOk]
  · simp [frameOk, hf]
  · simp [layersOk, hf]

theorem inv_acceptsFrame (hs : machineInv s = true) (ho : s.op = .idle) (m : FrameMode) (v : Byte)
    (ws : List RequestWord) :
    machineInv { armFrame m v { s with requests := ws } with op := frameOp m .idle } = true := by
  obtain ⟨ht, -⟩ := layersIdle_of_inv hs ho
  obtain ⟨hcs, hsck, hcount, hdin, -, -, -, hst⟩ := (machineInv_iff s).1 hs
  rw [machineInv_iff]
  refine ⟨hcs, hsck, hcount, hdin, rfl, ?_, ?_, hst⟩
  · cases m <;> simp [layersOk, framePhase, frameOp, ht]
  · cases m <;> rfl

/-- Each program is entered at an address of its own, in any panel state (R96, R109). -/
theorem programOf_entryAddress {o : Op} {a : Nat} (h : entryAddress o = some a) (q : PanelState) :
    programOf a = o ∧ pstateFits o a q = true := by
  cases o <;> cases h <;> exact ⟨rfl, rfl⟩

theorem inv_acceptsProgram (hs : machineInv s = true) (ho : s.op = .idle) {o : Op} {a : Nat}
    {e : RomEntry} (ws : List RequestWord) (ha : entryAddress o = some a)
    (he : romEntry a = some e) :
    machineInv (startMicro e { s with requests := ws, op := o, upc := BitVec.ofNat 6 a }) = true := by
  obtain ⟨ht, hf⟩ := layersIdle_of_inv hs ho
  obtain ⟨hcs, hsck, hcount, hdin, -, -, -, hst⟩ := (machineInv_iff s).1 hs
  obtain ⟨hp, hfits⟩ := programOf_entryAddress ha s.pstate
  exact inv_enter he { s with requests := ws, op := o } hp hcs hsck hcount hdin hf ht hst
    fun _ => hfits

/-- What a step does keeps the invariant. -/
theorem inv_of_stepsTo {t : State} (hs : machineInv s = true) (h : StepsTo s t) :
    machineInv t = true := by
  cases h with
  | waits => exact hs
  | acceptsByte v _ ws ho _ => exact inv_acceptsByte hs ho v ws
  | acceptsFrame m v _ ws ho _ => exact inv_acceptsFrame hs ho m v ws
  | acceptsProgram _ _ _ _ ws ho _ ha he => exact inv_acceptsProgram hs ho ws ha he
  | assertsCs _ ht => exact inv_stepAssertCs hs ht
  | setsData _ ht => exact inv_stepSetData hs ht
  | clockHigh _ ht => exact inv_stepClockHigh hs ht
  | clockLow _ ht => exact inv_stepClockLow hs ht
  | returnsByte hb ht => exact inv_returnsByte hs hb ht
  | startsFrame ho ht hf => exact inv_startsFrame hs ho ht hf
  | completes _ _ _ ho he hu hc => exact inv_completes hs ho he hu hc
  | samples _ hm he _ => exact inv_samples hs hm he
  | polls => exact inv_keepsWaiting hs
  | starts _ hm he hk => simp [(hasNoStep_of_inv hs hm he).1] at hk

end Invariant

/-- Settles O37: what a step can do is listed by `StepsTo`, and each case keeps the invariant. -/
theorem stepKeepsTheInvariant : Obligations.StepKeepsTheInvariant :=
  fun _ _ hs h => inv_of_stepsTo hs (stepsTo_of_step h)

end Sys2Proof.Machine

/-! # What a step changes

The trace and the pins, the environment, `STATUS`: each is a case analysis of `StepsTo`. -/

namespace Sys2Proof.Machine

/-! ## The trace and the pins -/

/-- The level of a pin after an event (R17, R20). -/
def levelAfter (e : Event) (p : OutPin) (before : Level) : Level :=
  match e with
  | .w q l => if q = p then l else before
  | .s _ => before
  | .t _ => before

/-- From `s` to `t` nothing is emitted and no pin changes. -/
def Quiet (s t : State) : Prop := t.trace = s.trace ∧ ∀ p, pinLevel t p = pinLevel s p

/-- From `s` to `t` the event `e` is emitted, and the pins change as it says. -/
def Emits (s t : State) (e : Event) : Prop :=
  t.trace = s.trace ++ [e] ∧ ∀ p, pinLevel t p = levelAfter e p (pinLevel s p)

section Effect

variable {s t u : State} {e : Event}

theorem Quiet.trans (h : Quiet s u) (h' : Quiet u t) : Quiet s t :=
  ⟨h'.1.trans h.1, fun p => (h'.2 p).trans (h.2 p)⟩

theorem Emits.quiet (h : Emits s u e) (h' : Quiet u t) : Emits s t e :=
  ⟨h'.1.trans h.1, fun p => (h'.2 p).trans (h.2 p)⟩

theorem emits_pinWrite (p : OutPin) (l : Level) (s : State) : Emits s (pinWrite p l s) (.w p l) :=
  ⟨pinWrite_trace s p l, fun q => pinLevel_pinWrite s p q l⟩

theorem emits_delay (n : Nat) (s : State) : Emits s (delay n s) (.t n) := ⟨rfl, fun _ => rfl⟩

theorem emits_pinRead (s : State) : Emits s (pinRead s) (.s (busyLevel s)) := ⟨rfl, fun _ => rfl⟩

theorem quiet_startMicro (r : RomEntry) (s : State) : Quiet s (startMicro r s) := by
  obtain ⟨htrace, hpins, -⟩ := startMicro_frame r s
  exact ⟨htrace, hpins⟩

theorem quiet_afterSample (l : Level) (u : State) : Quiet u (afterSample l u) := by
  obtain ⟨w, n, h⟩ | ⟨-, n, h⟩ := afterSample_cases l u <;> rw [h] <;> exact ⟨rfl, fun _ => rfl⟩

/-- Completing an entry starts the next one after the annotation (R96). -/
theorem completeWith_next {p : Annot} (h : completeWith p u = .next t) :
    ∃ r, t = startMicro r
      { u with
        pstate := (annotState p).getD u.pstate, upc := BitVec.ofNat 6 (u.upc.toNat + 1) } := by
  obtain ⟨r, -, ht⟩ := enter_next h
  exact ⟨r, by rw [ht, annotate_eq]⟩

theorem quiet_completeWith {p : Annot} (h : completeWith p u = .next t) : Quiet u t := by
  obtain ⟨r, rfl⟩ := completeWith_next h
  exact Quiet.trans (u := { u with
    pstate := (annotState p).getD u.pstate, upc := BitVec.ofNat 6 (u.upc.toNat + 1) })
    ⟨rfl, fun _ => rfl⟩ (quiet_startMicro r _)

theorem LastEvent.emits {r : RomEntry} (h : LastEvent s r u) : ∃ e, Emits s u e := by
  cases h with
  | release => exact ⟨_, (emits_pinWrite .cs .H s).quiet ⟨rfl, fun _ => rfl⟩⟩
  | reset p l => exact ⟨_, emits_pinWrite .rst l s⟩
  | pause p d => exact ⟨_, emits_delay _ s⟩
  | extraWait => exact ⟨_, emits_delay _ s⟩

/-- A step of an idle core is quiet, and so is one that performs a micro-operation that has no step of
its own; every other step emits one event and changes the pins as it says (R39, R46). -/
theorem StepsTo.quiet_or_emits (h : StepsTo s t) :
    (s.op = .idle ∧ Quiet s t) ∨
    ((∃ r, microDue s = true ∧ romEntry s.upc.toNat = some r ∧ hasNoStep r = true) ∧ Quiet s t) ∨
    (s.op ≠ .idle ∧ ∃ e, Emits s t e) := by
  cases h with
  | waits ho => exact .inl ⟨ho, rfl, fun _ => rfl⟩
  | acceptsByte v w ws ho => exact .inl ⟨ho, rfl, fun _ => rfl⟩
  | acceptsFrame m v w ws ho => exact .inl ⟨ho, rfl, fun _ => rfl⟩
  | acceptsProgram o a r w ws ho =>
    exact .inl ⟨ho, Quiet.trans (u := { s with requests := ws, op := o, upc := BitVec.ofNat 6 a })
      ⟨rfl, fun _ => rfl⟩ (quiet_startMicro r _)⟩
  | starts r hm he hk => exact .inr (.inl ⟨⟨r, hm, he, hk⟩, quiet_startMicro r s⟩)
  | assertsCs ho =>
    exact .inr (.inr ⟨ho, _, (emits_pinWrite .cs .L s).quiet ⟨rfl, fun _ => rfl⟩⟩)
  | setsData ho =>
    exact .inr (.inr ⟨ho, _, (emits_pinWrite .din _ s).quiet ⟨rfl, fun _ => rfl⟩⟩)
  | clockHigh ho =>
    exact .inr (.inr ⟨ho, _, (emits_pinWrite .sck .H s).quiet ⟨rfl, fun _ => rfl⟩⟩)
  | clockLow ho =>
    exact .inr (.inr ⟨ho, _, (emits_pinWrite .sck .L s).quiet ⟨rfl, fun _ => rfl⟩⟩)
  | returnsByte hb =>
    exact .inr (.inr ⟨fun ho => by simp [ho, isByteOp] at hb, _,
      (emits_pinWrite .cs .H s).quiet ⟨rfl, fun _ => rfl⟩⟩)
  | startsFrame ho =>
    exact .inr (.inr ⟨ho, _, (emits_pinWrite .dc _ s).quiet ⟨rfl, fun _ => rfl⟩⟩)
  | completes r u t ho he hu hc =>
    obtain ⟨e, hemits⟩ := hu.emits
    exact .inr (.inr ⟨op_ne_idle ho, e, hemits.quiet (quiet_completeWith hc)⟩)
  | samples p hm =>
    obtain ⟨-, -, ho⟩ := (microDue_iff s).1 hm
    exact .inr (.inr ⟨op_ne_idle ho, _, (emits_pinRead s).quiet (quiet_afterSample _ _)⟩)
  | polls p hm =>
    obtain ⟨-, -, ho⟩ := (microDue_iff s).1 hm
    exact .inr (.inr ⟨op_ne_idle ho, _, (emits_delay _ s).quiet ⟨rfl, fun _ => rfl⟩⟩)

end Effect

/-! ## A busy core goes on -/

/-- In a state of the invariant the micro-operation at `UPC` can complete (R27, R96). -/
theorem completeWith_goesOn {s u : State} (hs : machineInv s = true)
    (ho : isSequencerOp s.op = true) (hu : u.upc = s.upc) (p : Annot) :
    ∃ t, completeWith p u = .next t := by
  obtain ⟨e, he, hd, -⟩ := exists_romEntry_of_inv hs ho
  obtain ⟨e', he', -⟩ := romEntry_succ he hd
  exact ⟨_, completeWith_some u (by rwa [hu])⟩

/-- In a state of the invariant the transport goes on while a byte is being sent (R75 to R79). -/
theorem transportStep_goesOn {s : State} (hs : machineInv s = true) (ho : s.op ≠ .idle)
    (ht : s.tstate ≠ .idle) : ∃ t, transportStep s = .next t := by
  unfold transportStep
  cases htp : s.tstate
  case idle => exact absurd htp ht
  case csh =>
    simp only [stepReleaseCs]
    split
    next => exact ⟨_, rfl⟩
    next hb =>
      have hq := isSequencerOp_of_busy ho (by simpa using hb)
      obtain ⟨e, he, -, -⟩ := exists_romEntry_of_inv hs hq
      rw [complete_some (releaseCs s) (by simpa [releaseCs] using he)]
      exact completeWith_goesOn hs hq (by simp [releaseCs]) e.annot
  all_goals exact ⟨_, rfl⟩

/-- In a state of the invariant a due micro-operation goes on (R99 to R102). -/
theorem exec_micro_goesOn {s : State} {e : RomEntry} (hs : machineInv s = true)
    (hm : microDue s = true) : ∃ t, exec e.toInstr s = .next t := by
  obtain ⟨-, -, ho⟩ := (microDue_iff s).1 hm
  obtain ⟨p, o⟩ := e
  cases o with
  | cmd v => exact ⟨_, whenMicroDue_pos _ hm⟩
  | dat v => exact ⟨_, whenMicroDue_pos _ hm⟩
  | done => exact ⟨_, whenMicroDue_pos _ hm⟩
  | rst l =>
    obtain ⟨t, h⟩ := completeWith_goesOn (u := pinWrite .rst l s) hs ho rfl p
    exact ⟨t, (whenMicroDue_pos _ hm).trans h⟩
  | dly d =>
    obtain ⟨t, h⟩ := completeWith_goesOn (u := delay (delayOf s.cfg d) s) hs ho rfl p
    exact ⟨t, (whenMicroDue_pos _ hm).trans h⟩
  | wrdy =>
    rw [RomEntry.toInstr, exec, execUWrdy, whenMicroDue_pos _ hm]
    cases s.wstate
    case final => exact completeWith_goesOn (u := delay s.cfg.nPoll s) hs ho rfl p
    all_goals exact ⟨_, rfl⟩

/-- A busy core in a state of the invariant has a next state (R39, R133). -/
theorem step_goesOn_of_busy {s : State} (hs : machineInv s = true) (ho : s.op ≠ .idle) :
    ∃ t, step s = .next t := by
  by_cases ht : s.tstate = .idle
  · by_cases hf : s.fstate = .dc
    · rw [step_frame s ho ht hf, decodeFrame_frameWord, exec_frameInstr, sendFrame,
        whenFrameDue_pos _ ((frameDue_iff s).2 ⟨ht, hf⟩)]
      exact ⟨_, rfl⟩
    · have hb : isByteOp s.op = false := by
        obtain ⟨-, -, -, -, -, hl, -, -⟩ := (machineInv_iff s).1 hs
        cases hop : s.op <;> simp_all [layersOk, framePhase, isByteOp]
      have hq := isSequencerOp_of_busy ho hb
      obtain ⟨e, he, -, -⟩ := exists_romEntry_of_inv hs hq
      rw [step_micro s e hq ht hf he]
      exact exec_micro_goesOn hs ((microDue_iff s).2 ⟨ht, hf, hq⟩)
  · rw [step_transport s ho ht]
    exact transportStep_goesOn hs ho ht

/-- Settles O13: under the invariant a busy core goes on, and no micro-operation without a step of its
own is due, so its step is not quiet. -/
theorem busyStepEmitsOneEvent : Obligations.BusyStepEmitsOneEvent := by
  intro s hs ho
  obtain ⟨t, ht⟩ := step_goesOn_of_busy hs ho
  obtain ⟨hidle, -⟩ | ⟨⟨r, hm, he, hk⟩, -⟩ | ⟨-, e, htrace, -⟩ := (stepsTo_of_step ht).quiet_or_emits
  · exact absurd hidle ho
  · simp [(hasNoStep_of_inv hs hm he).1] at hk
  · exact ⟨t, e, ht, htrace⟩

/-- Settles O14: a step of an idle core is quiet. -/
theorem acceptanceEmitsNothing : Obligations.AcceptanceEmitsNothing := by
  intro s t ho h
  obtain ⟨-, htrace, -⟩ | ⟨-, htrace, -⟩ | ⟨hbusy, -⟩ := (stepsTo_of_step h).quiet_or_emits
  · exact htrace
  · exact htrace
  · exact absurd ho hbusy

/-- Settles O28: a step is quiet, or emits one event that says how the pins change. -/
theorem pinsFollowTheTrace : Obligations.PinsFollowTheTrace := by
  intro s t h
  obtain ⟨-, hquiet⟩ | ⟨-, hquiet⟩ | ⟨-, e, htrace, hpins⟩ := (stepsTo_of_step h).quiet_or_emits
  · exact .inl hquiet
  · exact .inl hquiet
  · refine .inr ⟨e, htrace, fun p => (hpins p).trans ?_⟩
    cases e <;> rfl

end Sys2Proof.Machine

namespace Sys2Proof.Machine

/-- A due micro-operation means an idle transport and a busy core. -/
theorem idle_and_busy_of_microDue {s : State} (hm : microDue s = true) :
    s.tstate = .idle ∧ s.op ≠ .idle := by
  obtain ⟨ht, -, ho⟩ := (microDue_iff s).1 hm
  exact ⟨ht, op_ne_idle ho⟩

/-! ## The mode-select line -/

/-- Settles O32: the one step that writes the mode-select line starts a frame, with the transport idle. -/
theorem modeSelectIsStable : Obligations.ModeSelectIsStable := by
  intro s t ho ht h
  cases stepsTo_of_step h with
  | waits ho' => exact absurd ho' ho
  | acceptsByte _ _ _ ho' => exact absurd ho' ho
  | acceptsFrame _ _ _ _ ho' => exact absurd ho' ho
  | acceptsProgram _ _ _ _ _ ho' => exact absurd ho' ho
  | assertsCs => rfl
  | setsData => rfl
  | clockHigh => rfl
  | clockLow => rfl
  | returnsByte => rfl
  | startsFrame _ ht' => exact absurd ht' ht
  | completes e u t _ _ hu hc =>
    have hdc : u.dc = s.dc := by cases hu <;> rfl
    obtain ⟨-, hpins⟩ := quiet_completeWith hc
    exact (hpins .dc).trans hdc
  | samples _ hm => exact absurd (idle_and_busy_of_microDue hm).1 ht
  | polls _ hm => exact absurd (idle_and_busy_of_microDue hm).1 ht
  | starts _ hm => exact absurd (idle_and_busy_of_microDue hm).1 ht

/-! ## The parameters, the requests and the draws -/

/-- From `s` to `t` the parameters, the requests and the draws are kept (R32). -/
def KeepsEnvironment (s t : State) : Prop :=
  t.cfg = s.cfg ∧ t.requests = s.requests ∧ t.busyIn = s.busyIn ∧ t.sampleNo = s.sampleNo

theorem KeepsEnvironment.trans {s u t : State} (h : KeepsEnvironment s u)
    (h' : KeepsEnvironment u t) : KeepsEnvironment s t := by
  obtain ⟨hc, hr, hb, hn⟩ := h
  obtain ⟨hc', hr', hb', hn'⟩ := h'
  exact ⟨hc'.trans hc, hr'.trans hr, hb'.trans hb, hn'.trans hn⟩

theorem keepsEnvironment_startMicro (e : RomEntry) (s : State) :
    KeepsEnvironment s (startMicro e s) := by
  obtain ⟨-, -, -, -, -, -, hc, hr, hb, hn⟩ := startMicro_frame e s
  exact ⟨hc, hr, hb, hn⟩

theorem keepsEnvironment_completeWith {u t : State} {p : Annot} (h : completeWith p u = .next t) :
    KeepsEnvironment u t := by
  obtain ⟨r, rfl⟩ := completeWith_next h
  exact keepsEnvironment_startMicro r _

theorem keepsEnvironment_afterSample (l : Level) (u : State) :
    KeepsEnvironment u (afterSample l u) := by
  obtain ⟨w, n, h⟩ | ⟨-, n, h⟩ := afterSample_cases l u <;> rw [h] <;> exact ⟨rfl, rfl, rfl, rfl⟩

theorem LastEvent.keepsEnvironment {s u : State} {e : RomEntry} (h : LastEvent s e u) :
    KeepsEnvironment s u := by
  cases h <;> exact ⟨rfl, rfl, rfl, rfl⟩

/-- A sample is next where the entry at `UPC` is a `uWRDY` that is due at `W_SAMPLE` (R101, R135). -/
theorem samplesNext_eq {s : State} {e : RomEntry} (he : romEntry s.upc.toNat = some e) :
    samplesNext s = (microDue s && decide (s.wstate = .sample) && decide (e.op = .wrdy)) := by
  simp [samplesNext, he]

theorem samplesNext_of_not_microDue {s : State} (h : microDue s = false) :
    samplesNext s = false := by
  simp [samplesNext, h]

/-- No sample is next in an idle core, in a byte, or where a frame is due (R135). -/
theorem samplesNext_false {s : State}
    (h : s.op = .idle ∨ s.tstate ≠ .idle ∨ s.fstate = .dc) : samplesNext s = false := by
  apply samplesNext_of_not_microDue
  rcases h with h | h | h <;> simp [microDue, isSequencerOp, h]

/-- The last event of an entry is no sample. -/
theorem LastEvent.samplesNext_false {s u : State} {e : RomEntry} (h : LastEvent s e u)
    (he : romEntry s.upc.toNat = some e) : samplesNext s = false := by
  rw [samplesNext_eq he]
  cases h with
  | release _ ht => simp [microDue, ht]
  | reset => simp
  | pause => simp
  | extraWait _ _ hw => simp [hw]

/-- A step keeps the environment and takes no sample; or, of an idle core, takes the next request; or
takes a sample, which uses up one draw (R21, R26, R32). -/
theorem StepsTo.environment {s t : State} (h : StepsTo s t) :
    (samplesNext s = false ∧ KeepsEnvironment s t) ∨
    (samplesNext s = false ∧ s.op = .idle ∧
      ∃ w ws, s.requests = w :: ws ∧ KeepsEnvironment { s with requests := ws } t) ∨
    (samplesNext s = true ∧ KeepsEnvironment (pinRead s) t) := by
  cases h with
  | waits ho => exact .inl ⟨samplesNext_false (.inl ho), rfl, rfl, rfl, rfl⟩
  | acceptsByte v w ws ho hr =>
    exact .inr (.inl ⟨samplesNext_false (.inl ho), ho, w, ws, hr, rfl, rfl, rfl, rfl⟩)
  | acceptsFrame m v w ws ho hr =>
    exact .inr (.inl ⟨samplesNext_false (.inl ho), ho, w, ws, hr, rfl, rfl, rfl, rfl⟩)
  | acceptsProgram o a e w ws ho hr =>
    exact .inr (.inl ⟨samplesNext_false (.inl ho), ho, w, ws, hr, keepsEnvironment_startMicro e _⟩)
  | assertsCs _ ht =>
    exact .inl ⟨samplesNext_false (.inr (.inl (by simp [ht]))), rfl, rfl, rfl, rfl⟩
  | setsData _ ht =>
    exact .inl ⟨samplesNext_false (.inr (.inl (by simp [ht]))), rfl, rfl, rfl, rfl⟩
  | clockHigh _ ht =>
    exact .inl ⟨samplesNext_false (.inr (.inl (by simp [ht]))), rfl, rfl, rfl, rfl⟩
  | clockLow _ ht =>
    exact .inl ⟨samplesNext_false (.inr (.inl (by simp [ht]))), rfl, rfl, rfl, rfl⟩
  | returnsByte _ ht =>
    exact .inl ⟨samplesNext_false (.inr (.inl (by simp [ht]))), rfl, rfl, rfl, rfl⟩
  | startsFrame _ _ hf =>
    exact .inl ⟨samplesNext_false (.inr (.inr hf)), rfl, rfl, rfl, rfl⟩
  | completes e u t _ he hu hc =>
    exact .inl ⟨hu.samplesNext_false he, hu.keepsEnvironment.trans (keepsEnvironment_completeWith hc)⟩
  | samples p hm he hw =>
    exact .inr (.inr ⟨by simp [samplesNext_eq he, hm, hw], keepsEnvironment_afterSample _ _⟩)
  | polls p hm he hw => exact .inl ⟨by simp [samplesNext_eq he, hw], rfl, rfl, rfl, rfl⟩
  | starts e hm he hk =>
    refine .inl ⟨?_, keepsEnvironment_startMicro e s⟩
    rw [samplesNext_eq he]
    obtain ⟨p, o⟩ := e
    cases o <;> simp_all [hasNoStep]

/-- Settles O36: the three ways a step treats the environment. -/
theorem environmentIsOnlyConsumed : Obligations.EnvironmentIsOnlyConsumed := by
  intro s t h
  obtain ⟨hs, hc, hr, hb, hn⟩ | ⟨hs, ho, w, ws, hw, hc, hr, hb, hn⟩ | ⟨hs, hc, hr, hb, hn⟩ :=
    (stepsTo_of_step h).environment
  · exact ⟨hc, .inl hr, by simp [hs, hb, hn]⟩
  · exact ⟨hc, .inr ⟨ho, w, by rw [hw, hr]⟩, by simp [hs, hb, hn]⟩
  · exact ⟨hc, .inl hr, by simp [hs, hb, hn]⟩

/-- Settles O18: each request is guarded by `OP = IDLE`, and only an idle core takes a request. -/
theorem requestIsHeldWhileBusy : Obligations.RequestIsHeldWhileBusy := by
  refine ⟨fun v s ho i hi => ?_, fun s t ho h => ?_⟩
  · simp only [List.mem_cons, List.not_mem_nil, or_false] at hi
    obtain rfl | rfl | rfl | rfl | rfl | rfl | rfl := hi <;> exact whenIdle_neg _ ho
  · obtain ⟨-, hr | ⟨hidle, -⟩, -⟩ := environmentIsOnlyConsumed s t h
    · exact hr
    · exact absurd hidle ho

/-! ## `STATUS` -/

/-- Starting an entry writes `STATUS` only where the entry ends its program (R96, R102). -/
theorem startMicro_status (e : RomEntry) (s : State) :
    (isDone e = false ∧ (startMicro e s).status = s.status) ∨
      (isDone e = true ∧ (startMicro e s).status = 0 ∧ (startMicro e s).op = .idle) := by
  obtain ⟨p, o⟩ := e
  cases o with
  | done => exact .inr ⟨rfl, endProgram_status s p, endProgram_op s p⟩
  | _ => exact .inl ⟨rfl, rfl⟩

/-- No program begins with its end (R96). -/
theorem isDone_entryAddress {o : Op} {a : Nat} {e : RomEntry} (ha : entryAddress o = some a)
    (he : romEntry a = some e) : isDone e = false := by
  have hfirst : (romEntry a).map isDone = some false := by cases o <;> cases ha <;> decide
  simpa [he] using hfirst

/-- A step that changes `STATUS` ends a sequencer operation, with 0 or, by a timeout, with 1 (R134). -/
theorem StepsTo.status {s t : State} (h : StepsTo s t) :
    t.status = s.status ∨ (isSequencerOp s.op = true ∧ t.op = .idle ∧
      (t.status = 0 ∨ (t.status = 1 ∧ s.cfg.busyTimeout ≠ none))) := by
  cases h with
  | acceptsProgram o a e w ws ho hr ha he =>
    have hd := isDone_entryAddress ha he
    obtain ⟨-, h⟩ | ⟨hdone, -⟩ := startMicro_status e _
    · exact .inl h
    · simp [hd] at hdone
  | completes e u t ho he hu hc =>
    have hus : u.status = s.status := by cases hu <;> rfl
    obtain ⟨r, rfl⟩ := completeWith_next hc
    obtain ⟨-, h⟩ | ⟨-, h, hop⟩ := startMicro_status r _
    · exact .inl (h.trans hus)
    · exact .inr ⟨ho, hop, .inl h⟩
  | samples p hm =>
    obtain ⟨-, -, ho⟩ := (microDue_iff s).1 hm
    obtain ⟨w, n, h⟩ | ⟨hto, n, h⟩ := afterSample_cases (busyLevel s) (pinRead s) <;> rw [h]
    · exact .inl rfl
    · exact .inr ⟨ho, rfl, .inr ⟨rfl, hto⟩⟩
  | starts e hm =>
    obtain ⟨-, -, ho⟩ := (microDue_iff s).1 hm
    obtain ⟨-, h⟩ | ⟨-, h, hop⟩ := startMicro_status e s
    · exact .inl h
    · exact .inr ⟨ho, hop, .inl h⟩
  | _ => exact .inl rfl

/-- Settles O35: the ways a step treats `STATUS`. -/
theorem statusIsWrittenAtReturn : Obligations.StatusIsWrittenAtReturn :=
  fun _ _ h hne => (stepsTo_of_step h).status.resolve_left hne

end Sys2Proof.Machine

/-! # What a step does not read -/

namespace Sys2Proof.Machine

/-- `s` with the levels of the output pins forgotten, or `PSTATE`, or both. -/
def forget (pins panel : Bool) (s : State) : State :=
  { s with
    sck := if pins then .L else s.sck
    din := if pins then .L else s.din
    dc := if pins then .L else s.dc
    cs := if pins then .L else s.cs
    rst := if pins then .L else s.rst
    pstate := if panel then .uninit else s.pstate }

section Forget

variable (pins panel : Bool)

/-- An update that does not read what is forgotten. -/
def BlindUpdate (g : State → State) : Prop :=
  ∀ s, forget pins panel (g (forget pins panel s)) = forget pins panel (g s)

/-- A part of the step that does not read what is forgotten. -/
def Blind (F : State → Result) : Prop :=
  ∀ s, mapState (forget pins panel) (F (forget pins panel s)) = mapState (forget pins panel) (F s)

variable {pins panel}

theorem BlindUpdate.next {g : State → State} (hg : BlindUpdate pins panel g) :
    Blind pins panel fun s => .next (g s) :=
  fun s => congrArg Host.Outcome.next (hg s)

theorem Blind.comp {F : State → Result} {g : State → State} (hF : Blind pins panel F)
    (hg : BlindUpdate pins panel g) : Blind pins panel fun s => F (g s) := by
  intro s
  calc mapState (forget pins panel) (F (g (forget pins panel s)))
      = mapState (forget pins panel) (F (forget pins panel (g (forget pins panel s)))) :=
        (hF _).symm
    _ = mapState (forget pins panel) (F (forget pins panel (g s))) := by rw [hg]
    _ = mapState (forget pins panel) (F (g s)) := hF _

theorem BlindUpdate.comp {f g : State → State} (hf : BlindUpdate pins panel f)
    (hg : BlindUpdate pins panel g) : BlindUpdate pins panel fun s => f (g s) := by
  intro s
  calc forget pins panel (f (g (forget pins panel s)))
      = forget pins panel (f (forget pins panel (g (forget pins panel s)))) := (hf _).symm
    _ = forget pins panel (f (forget pins panel (g s))) := by rw [hg]
    _ = forget pins panel (f (g s)) := hf _

/-! ## The updates -/

theorem forget_forget (s : State) :
    forget pins panel (forget pins panel s) = forget pins panel s := by
  cases pins <;> cases panel <;> rfl

/-- An update of other registers commutes with forgetting. -/
theorem blind_of_commutes {g : State → State}
    (h : ∀ s, g (forget pins panel s) = forget pins panel (g s)) : BlindUpdate pins panel g :=
  fun s => by rw [h, forget_forget]

theorem blind_pinWrite (p : OutPin) (l : Level) : BlindUpdate pins panel (pinWrite p l) := by
  intro s; cases p <;> cases pins <;> cases panel <;> rfl

theorem blind_annotate (p : Annot) : BlindUpdate pins panel (annotate p) := by
  intro s; cases p <;> cases pins <;> cases panel <;> rfl

theorem blind_endProgram (p : Annot) : BlindUpdate pins panel (endProgram p) :=
  (blind_of_commutes (g := fun s => { s with status := statusSuccess, op := .idle })
    fun _ => rfl).comp (blind_annotate p)

theorem blind_startMicro (e : RomEntry) : BlindUpdate pins panel (startMicro e) := by
  obtain ⟨p, o⟩ := e
  cases o with
  | done => exact blind_endProgram p
  | _ => exact blind_of_commutes fun _ => rfl

theorem blind_afterSample (l : Level) : BlindUpdate pins panel (afterSample l) := by
  refine blind_of_commutes fun s => ?_
  have hcfg : (forget pins panel s).cfg = s.cfg := rfl
  have hcount : (forget pins panel s).pollcnt = s.pollcnt := rfl
  simp only [afterSample, hcfg, hcount]
  split
  · rfl
  · split
    · rfl
    · split <;> rfl

/-! ## Entering and completing -/

theorem blind_enter (a : Nat) : Blind pins panel (enter a) := by
  unfold enter
  cases romEntry a with
  | none => exact fun _ => rfl
  | some e =>
    exact ((blind_startMicro e).comp
      (blind_of_commutes (g := fun s => { s with upc := BitVec.ofNat 6 a }) fun _ => rfl)).next

theorem blind_completeWith (p : Annot) : Blind pins panel (completeWith p) :=
  fun s => ((blind_enter (s.upc.toNat + 1)).comp (blind_annotate p)) s

theorem blind_complete : Blind pins panel complete := by
  intro s
  have hupc : (forget pins panel s).upc = s.upc := rfl
  unfold complete
  rw [hupc]
  cases romEntry s.upc.toNat with
  | none => rfl
  | some e => exact blind_completeWith e.annot s

/-! ## The guards -/

theorem blind_next : Blind pins panel .next :=
  BlindUpdate.next (g := fun s => s) forget_forget

/-- A choice by what is not forgotten, between parts that do not read what is. -/
theorem Blind.ite {c : State → Prop} [DecidablePred c] {F G : State → Result}
    (hc : ∀ s, c (forget pins panel s) ↔ c s) (hF : Blind pins panel F) (hG : Blind pins panel G) :
    Blind pins panel fun s => if c s then F s else G s := by
  intro s
  by_cases h : c s
  · simpa [h, hc] using hF s
  · simpa [h, hc] using hG s

theorem Blind.whenIdle {F : State → Result} (hF : Blind pins panel F) :
    Blind pins panel fun s => whenIdle s (F s) :=
  Blind.ite (c := fun s => s.op = .idle) (fun _ => Iff.rfl) hF blind_next

theorem Blind.whenMicroDue {F : State → Result} (hF : Blind pins panel F) :
    Blind pins panel fun s => whenMicroDue s (F s) :=
  Blind.ite (c := fun s => microDue s = true) (fun _ => Iff.rfl) hF blind_next

theorem Blind.whenFrameDue {F : State → Result} (hF : Blind pins panel F) :
    Blind pins panel fun s => whenFrameDue s (F s) :=
  Blind.ite (c := fun s => frameDue s = true) (fun _ => Iff.rfl) hF blind_next

/-! ## The layers -/

theorem blind_sendFrame (m : FrameMode) (b : Byte) : Blind pins panel (sendFrame m b) := by
  refine Blind.whenFrameDue (BlindUpdate.next fun s => ?_)
  exact ((blind_of_commutes (g := fun s => { loadByte b s with fstate := .xmit }) fun _ => rfl).comp
    (blind_pinWrite .dc (dcLevel s.cfg m))) s

theorem blind_accept (o : Op) (a : Nat) : Blind pins panel (accept o a) :=
  ((blind_enter a).comp
    (blind_of_commutes (g := fun s => { s with op := o }) fun _ => rfl)).whenIdle

theorem blind_execUWrdy (p : Annot) : Blind pins panel (execUWrdy p) := by
  refine Blind.whenMicroDue fun s => ?_
  have hw : (forget pins panel s).wstate = s.wstate := rfl
  rw [hw]
  cases s.wstate with
  | sample =>
    exact ((blind_afterSample (busyLevel s)).comp
      (blind_of_commutes (g := pinRead) fun _ => rfl)).next s
  | poll =>
    exact (blind_of_commutes
      (g := fun s => { delay s.cfg.nPoll s with wstate := .sample }) fun _ => rfl).next s
  | final =>
    exact ((blind_completeWith p).comp
      (blind_of_commutes (g := fun s => delay s.cfg.nPoll s) fun _ => rfl)) s

/-- No instruction reads what is forgotten. -/
theorem blind_exec (i : Instr) : Blind pins panel (exec i) := by
  cases i with
  | transmitByte v =>
    exact (blind_of_commutes
      (g := fun s => { loadByte v s with op := .transmitByte }) fun _ => rfl).next.whenIdle
  | sendCommand c =>
    exact (blind_of_commutes
      (g := fun s => { armFrame .cmd c s with op := .sendCommand }) fun _ => rfl).next.whenIdle
  | sendData d =>
    exact (blind_of_commutes
      (g := fun s => { armFrame .dat d s with op := .sendData }) fun _ => rfl).next.whenIdle
  | hardwareReset => exact blind_accept _ _
  | waitUntilReady => exact blind_accept _ _
  | initializeOp => exact blind_accept _ _
  | refreshAndSleep => exact blind_accept _ _
  | reservedOp7 => exact fun _ => rfl
  | uCmd p v => exact (blind_of_commutes (g := armFrame .cmd v) fun _ => rfl).next.whenMicroDue
  | uDat p v => exact (blind_of_commutes (g := armFrame .dat v) fun _ => rfl).next.whenMicroDue
  | uRst p l => exact ((blind_completeWith p).comp (blind_pinWrite .rst l)).whenMicroDue
  | uDly p d =>
    exact ((blind_completeWith p).comp
      (blind_of_commutes (g := fun s => delay (delayOf s.cfg d) s) fun _ => rfl)).whenMicroDue
  | uWrdy p => exact blind_execUWrdy p
  | uEnd p => exact (blind_endProgram p).next.whenMicroDue
  | _ => exact blind_sendFrame _ _

theorem blind_releaseCs : BlindUpdate pins panel releaseCs :=
  (blind_of_commutes (g := fun s => { s with tstate := .idle, fstate := framerReturn s.fstate })
    fun _ => rfl).comp (blind_pinWrite .cs .H)

theorem blind_stepReleaseCs : Blind pins panel stepReleaseCs :=
  Blind.ite (c := fun s => isByteOp s.op = true) (fun _ => Iff.rfl)
    ((blind_of_commutes (g := fun s => { s with op := .idle }) fun _ => rfl).comp
      blind_releaseCs).next
    (blind_complete.comp blind_releaseCs)

theorem blind_transportStep : Blind pins panel transportStep := by
  intro s
  have htp : (forget pins panel s).tstate = s.tstate := rfl
  unfold transportStep
  rw [htp]
  cases s.tstate with
  | idle => rfl
  | csl =>
    exact ((blind_of_commutes (g := fun s => { s with tstate := .setd }) fun _ => rfl).comp
      (blind_pinWrite .cs .L)).next s
  | setd =>
    exact ((blind_of_commutes (g := fun s => { s with tstate := .ckh }) fun _ => rfl).comp
      (blind_pinWrite .din (lvl (s.sr.getLsbD 7)))).next s
  | ckh =>
    exact ((blind_of_commutes (g := fun s => { s with tstate := .ckl }) fun _ => rfl).comp
      (blind_pinWrite .sck .H)).next s
  | ckl =>
    exact ((blind_of_commutes
      (g := fun s => { s with
        sr := shiftLeft s.sr
        bitcnt := countDown s.bitcnt
        tstate := if noBitsLeft (countDown s.bitcnt) then .csh else .setd }) fun _ => rfl).comp
      (blind_pinWrite .sck .L)).next s
  | csh => exact blind_stepReleaseCs s

/-- What a step does is decided without what is forgotten: `due` commutes with forgetting. -/
theorem blind_step : Blind pins panel step := by
  intro s
  by_cases ho : s.op = .idle
  · cases hr : s.requests with
    | nil =>
      rw [idleCoreWaits s ho hr, idleCoreWaits (forget pins panel s) ho hr]
      exact congrArg Host.Outcome.next (forget_forget s)
    | cons w ws =>
      rw [step_request s w ws ho hr, step_request (forget pins panel s) w ws ho hr]
      exact blind_exec (decodeRequest w) { s with requests := ws }
  · by_cases ht : s.tstate = .idle
    · by_cases hf : s.fstate = .dc
      · rw [step_frame s ho ht hf, step_frame (forget pins panel s) ho ht hf]
        exact blind_exec (decodeFrame (frameWord s.fmode s.arg)) s
      · cases hq : isSequencerOp s.op with
        | false =>
          rw [step_noStepDue s ho ht hf hq, step_noStepDue (forget pins panel s) ho ht hf hq]
        | true =>
          cases he : romEntry s.upc.toNat with
          | none =>
            rw [step_romAddressAbsent s ht hf hq he,
              step_romAddressAbsent (forget pins panel s) ht hf hq he]
          | some e =>
            rw [step_micro s e hq ht hf he, step_micro (forget pins panel s) e hq ht hf he]
            exact blind_exec e.toInstr s
    · rw [step_transport s ho ht, step_transport (forget pins panel s) ho ht]
      exact blind_transportStep s

/-- Two states that differ in what is forgotten only have steps that do so. -/
theorem step_of_forget_eq {s t : State} (h : forget pins panel s = forget pins panel t) :
    mapState (forget pins panel) (step s) = mapState (forget pins panel) (step t) := by
  rw [← blind_step s, h, blind_step t]

end Forget

/-- Settles O29: a step is blind to the output pins. -/
theorem outputPinsAreNeverReadBack : Obligations.OutputPinsAreNeverReadBack :=
  fun _ _ _ _ _ _ => step_of_forget_eq (pins := true) (panel := false) rfl

/-- Settles O31: a step is blind to `PSTATE`. -/
theorem panelStateGatesNothing : Obligations.PanelStateGatesNothing :=
  fun _ _ => step_of_forget_eq (pins := false) (panel := true) rfl

end Sys2Proof.Machine

/-! # Reset and the host's ports -/

namespace Sys2Proof.Machine

/-- Settles O39: the layers are idle, no frame or byte constrains the unspecified registers, and `STATUS`
is 0. -/
theorem afterResetMeetsTheInvariant : Obligations.AfterResetMeetsTheInvariant := by
  intro s h
  obtain ⟨hcs, hsck, hcount, ht, hf, ho, -, hst, -⟩ : s.cs = .H ∧ s.sck = .L ∧ s.bitcnt = 0 ∧
      s.tstate = .idle ∧ s.fstate = .idle ∧ s.op = .idle ∧ s.pstate = .uninit ∧ s.status = 0 ∧
      s.trace = [] := by
    simpa [afterReset, and_assoc] using h
  rw [machineInv_iff]
  refine ⟨?_, ?_, ?_, ?_, ?_, ?_, ?_, ?_⟩
  · simp [csOk, hcs, ht, inWindow]
  · simp [sckOk, hsck, ht]
  · simp [countOk, hcount, ht]
  · simp [dinOk, ht]
  · simp [frameOk, hf]
  · simp [layersOk, ho, layersIdle, ht, hf]
  · simp [pstateOk, ho, pstateFits]
  · simp [statusOk, hst, statusSuccess]

/-- Settles O38: the state after reset is one of those that the reset may leave. -/
theorem resetMeetsTheInvariant : Obligations.ResetMeetsTheInvariant := by
  have hreset : afterReset State.reset = true := by decide
  exact ⟨hreset, afterResetMeetsTheInvariant State.reset hreset⟩

/-- The codes of R29 tell the panel states apart. -/
theorem panelCode_injective : Function.Injective panelCode := by
  intro p q h
  cases p <;> cases q <;> simp_all [panelCode]

/-- The host reads a code exactly in the panel state it stands for (R29). -/
theorem pstate_iff_pstatePort (s : State) (q : PanelState) :
    s.pstate = q ↔ pstatePort s = panelCode q :=
  panelCode_injective.eq_iff.symm

/-- Settles O59: the codes of R29 are distinct, and the `STATUS` port answers for an idle core only. -/
theorem hostPortsReadTheRegisters : Obligations.HostPortsReadTheRegisters := by
  intro s
  refine ⟨pstate_iff_pstatePort s _, pstate_iff_pstatePort s _, pstate_iff_pstatePort s _,
    pstate_iff_pstatePort s _, pstate_iff_pstatePort s _, fun ho => ?_, fun ho => ?_⟩
  · simp [statusPort, ho]
  · simp [statusPort, ho]

end Sys2Proof.Machine

/-! # The sequence ROM and its listings -/

namespace Sys2Proof.Machine

/-- The words of the ROM are the encoded entries of the listings (R108, R122, R128). -/
theorem rom_eq_map_encodeEntry : rom = romListing.map encodeEntry := by decide

/-- Decoding undoes the encoding of a listed entry, so a fetch answers as the listing does. -/
theorem romEntry_eq_romListing (a : Nat) : romEntry a = romListing[a]? := by
  rw [romEntry, rom_eq_map_encodeEntry, List.getElem?_map]
  cases romListing[a]? with
  | none => rfl
  | some e => simp

/-- Settles O7: the words are the encoded entries, and fetching reads the listing back. -/
theorem romHoldsTheListings : Obligations.RomHoldsTheListings := by
  have hlen : romListing.length = 46 := rfl
  refine ⟨List.ext_getElem (by simp [hlen]) fun a ha _ => ?_, rom_eq_map_encodeEntry,
    fun _ => romEntry_none⟩
  have ha : a < romListing.length := by simpa [hlen] using ha
  simp [romEntry_eq_romListing, ha]

end Sys2Proof.Machine

/-! # What the monitor reads from a byte -/

namespace Sys2Proof.Machine

@[simp] theorem toBool_lvl (b : Bool) : (lvl b).toBool = b := by cases b <;> rfl

/-- The monitor in a window that has just been opened (R56). -/
def openWindow (m : MonitorState) : MonitorState := { m with cs := .L, acc := [], mode := none }

/-- The monitor after the bits `b :: bs` of an open window: the data line keeps the last, and the mode is
the level of `DC` unless an earlier bit fixed it (R56). -/
def afterBits (m : MonitorState) (b : Bool) (bs : List Bool) : MonitorState :=
  { m with din := lvl (bs.getLastD b), acc := m.acc ++ b :: bs, mode := some (m.mode.getD m.dc) }

/-- The monitor after a byte sent with `DC` at level `l`. -/
def afterByte (m : MonitorState) (l : Level) (v : Byte) : MonitorState :=
  { m with din := lvl (v.getLsbD 0), dc := l, acc := bitsMsbFirst v, mode := some l }

/-- The fall of chip-select opens an empty window (R56, first test). -/
theorem monitorFrom_fall (m : MonitorState) (es : List Event) (hcs : m.cs = .H) :
    monitorFrom m (.w .cs .L :: es) = monitorFrom (openWindow m) es := by
  simp [openWindow, monitorFrom, monitorOpen, monitorSample, monitorEmit, monitorLevel, hcs]

/-- The rise of chip-select closes the window and emits its frame (R56, third test). -/
theorem monitorFrom_rise (m : MonitorState) (es : List Event) (hcs : m.cs = .L) :
    monitorFrom m (.w .cs .H :: es) = ⟨m.mode, m.acc⟩ :: monitorFrom { m with cs := .H } es := by
  simp [monitorFrom, monitorOpen, monitorSample, monitorEmit, monitorLevel, hcs]

/-- Inside a window the three writes of a bit sample it once, at the rising clock edge (R56, second
test). -/
theorem monitorFrom_bitEvents (m : MonitorState) (b : Bool) (es : List Event) (hsck : m.sck = .L)
    (hcs : m.cs = .L) :
    monitorFrom m (bitEvents b ++ es) = monitorFrom (afterBits m b []) es := by
  simp [bitEvents, monitorFrom, monitorOpen, monitorSample, monitorEmit, monitorLevel, afterBits,
    hsck, hcs]

/-- Inside a window the writes of one or more bits sample them in order. -/
theorem monitorFrom_flatMap_bitEvents (m : MonitorState) (b : Bool) (bs : List Bool)
    (es : List Event) (hsck : m.sck = .L) (hcs : m.cs = .L) :
    monitorFrom m ((b :: bs).flatMap bitEvents ++ es) = monitorFrom (afterBits m b bs) es := by
  induction bs generalizing b m with
  | nil => exact monitorFrom_bitEvents m b es hsck hcs
  | cons c bs ih =>
    have hbits : afterBits (afterBits m b []) c bs = afterBits m b (c :: bs) := by
      simp [afterBits, List.getLastD_cons, -List.getLastD_eq_getLast?]
    rw [List.flatMap_cons, List.append_assoc, monitorFrom_bitEvents m b _ hsck hcs,
      ih (afterBits m b []) c hsck hcs, hbits]

/-- Between two windows the monitor reads a byte as one frame, at the level of `DC`, and then is between
two windows again (R56, R57). -/
theorem monitorFrom_traceX (m : MonitorState) (v : Byte) (es : List Event) (hsck : m.sck = .L)
    (hcs : m.cs = .H) :
    monitorFrom m (traceX v ++ es) = byteFrame m.dc v :: monitorFrom (afterByte m m.dc v) es := by
  have hbits : bitsMsbFirst v =
      v.getLsbD 7 :: [6, 5, 4, 3, 2, 1, 0].map fun i => v.getLsbD i := rfl
  calc monitorFrom m (traceX v ++ es)
      = monitorFrom m (.w .cs .L :: ((bitsMsbFirst v).flatMap bitEvents ++ .w .cs .H :: es)) := by
        simp [traceX]
    _ = monitorFrom (afterBits (openWindow m) (v.getLsbD 7) _) (.w .cs .H :: es) := by
        rw [monitorFrom_fall m _ hcs, hbits,
          monitorFrom_flatMap_bitEvents (openWindow m) _ _ _ hsck rfl]
    _ = byteFrame m.dc v :: monitorFrom (afterByte m m.dc v) es := by
        rw [monitorFrom_rise _ es rfl]
        simp [afterBits, afterByte, byteFrame, openWindow, hbits, hcs]

/-- Between two windows the monitor reads a frame at the level of its kind (R57, R92). -/
theorem monitorFrom_traceFrame (m : MonitorState) (c : Config) (k : FrameMode) (v : Byte)
    (es : List Event) (hsck : m.sck = .L) (hcs : m.cs = .H) :
    monitorFrom m (traceFrame c k v ++ es) =
      byteFrame (dcLevel c k) v :: monitorFrom (afterByte m (dcLevel c k) v) es := by
  have hdc : monitorFrom m (traceFrame c k v ++ es) =
      monitorFrom { m with dc := dcLevel c k } (traceX v ++ es) := by
    simp [traceFrame, monitorFrom, monitorOpen, monitorSample, monitorEmit, monitorLevel]
  rw [hdc]
  exact monitorFrom_traceX { m with dc := dcLevel c k } v es hsck hcs

/-- The bits of a byte's frame, the first the most significant, make up the byte (R43, R56). -/
theorem value_byteFrame (l : Level) (v : Byte) : (byteFrame l v).value = v.toNat :=
  calc (byteFrame l v).value
      = Nat.ofBits fun i : Fin 8 => v.toNat.testBit i := rfl
    _ = v.toNat % 2 ^ 8 := Nat.ofBits_testBit v.toNat 8
    _ = v.toNat := Nat.mod_eq_of_lt v.isLt

/-- Settles O54: the monitor starts between two windows, and nothing follows the byte. -/
theorem monitorReadsTheByte : Obligations.MonitorReadsTheByte := by
  intro v din0 dc0 c
  have hframe : ∀ k, monitor .L din0 dc0 .H (traceFrame c k v) = [byteFrame (dcLevel c k) v] := by
    intro k
    simpa [monitor, monitorFrom] using
      monitorFrom_traceFrame ⟨.L, din0, dc0, .H, [], none⟩ c k v [] rfl rfl
  refine ⟨?_, hframe .cmd, hframe .dat, value_byteFrame dc0 v⟩
  simpa [monitor, monitorFrom] using
    monitorFrom_traceX ⟨.L, din0, dc0, .H, [], none⟩ v [] rfl rfl

end Sys2Proof.Machine

/-! # Encodings

`Laws/Decode.lean` reads an encoded word back; here is the other direction: what decodes is the
encoding of what it decodes to. -/

namespace Sys2Proof

/-! ## ROM words -/

/-- An annotation code decodes exactly to the annotation it encodes (R65). -/
theorem decodeAnnot_eq_ok_iff (p : BitVec 3) (a : Annot) : decodeAnnot p = .ok a ↔ a.code = p := by
  refine ⟨fun h => ?_, fun h => by rw [← h, decodeAnnot_code]⟩
  unfold decodeAnnot at h
  split at h <;> cases h
  all_goals exact BitVec.eq_of_toNat_eq (Eq.symm ‹p.toNat = _›)

/-- A selector decodes exactly to the delay it encodes (R67). -/
theorem decodeSel_eq_ok_iff (v : Byte) (d : DelaySel) : decodeSel v = .ok d ↔ d.code = v := by
  refine ⟨fun h => ?_, fun h => by rw [← h, decodeSel_code]⟩
  unfold decodeSel at h
  split at h <;> cases h
  all_goals exact BitVec.eq_of_toNat_eq (Eq.symm ‹v.toNat = _›)

/-- The operand of `uRST` is the bit of its level (R66). -/
theorem operand_rst_lvl {v : Byte} (h : v.toNat ≤ 1) :
    (MicroOp.rst (lvl (v.getLsbD 0))).operand = v := by
  obtain hv | hv : v.toNat = 0 ∨ v.toNat = 1 := by omega
  · obtain rfl : v = 0 := BitVec.eq_of_toNat_eq hv
    rfl
  · obtain rfl : v = 1 := BitVec.eq_of_toNat_eq hv
    rfl

/-- A kind and an operand decode exactly to the micro-operation they encode (R66). -/
theorem decodeKind_eq_ok_iff (k : BitVec 3) (v : Byte) (o : MicroOp) :
    decodeKind k v = .ok o ↔ o.kind = k ∧ o.operand = v := by
  refine ⟨fun h => ?_, fun ⟨hk, hv⟩ => by rw [← hk, ← hv, decodeKind_code]⟩
  suffices o.kind.toNat = k.toNat ∧ o.operand = v from this.imp_left BitVec.eq_of_toNat_eq
  unfold decodeKind at h
  split at h
  next hk => cases h; exact ⟨hk.symm, rfl⟩
  next hk => cases h; exact ⟨hk.symm, rfl⟩
  next hk =>
    split at h
    next hv => cases h; exact ⟨hk.symm, operand_rst_lvl hv⟩
    next => cases h
  next hk =>
    cases hd : decodeSel v with
    | error r => rw [hd] at h; cases h
    | ok d => rw [hd] at h; cases h; exact ⟨hk.symm, (decodeSel_eq_ok_iff v d).1 hd⟩
  next hk =>
    split at h
    next hv => cases h; exact ⟨hk.symm, BitVec.eq_of_toNat_eq hv.symm⟩
    next => cases h
  next hk =>
    split at h
    next hv => cases h; exact ⟨hk.symm, BitVec.eq_of_toNat_eq hv.symm⟩
    next => cases h
  next => cases h

/-- A ROM word is made of its three fields (R65). -/
theorem entryWord_fields (w : MicroWord) :
    ((w.extractLsb' 11 3 ++ w.extractLsb' 8 3) ++ w.extractLsb' 0 8 : MicroWord) = w := by
  rw [BitVec.extractLsb'_append_extractLsb'_eq_extractLsb' (show 11 = 8 + 3 from rfl),
    BitVec.extractLsb'_append_extractLsb'_eq_extractLsb' (show 8 = 0 + 8 from rfl)]
  exact BitVec.extractLsb'_eq_self

/-- A ROM word decodes exactly to the entry whose fields it holds (R65). -/
theorem decodeEntry_word_eq_ok_iff (p k : BitVec 3) (v : Byte) (e : RomEntry) :
    decodeEntry ((p ++ k) ++ v) = .ok e ↔
      e.annot.code = p ∧ e.op.kind = k ∧ e.op.operand = v := by
  rw [← decodeAnnot_eq_ok_iff, ← decodeKind_eq_ok_iff, decodeEntry_word]
  obtain ⟨a, o⟩ := e
  cases decodeAnnot p <;> cases decodeKind k v <;> simp

end Sys2Proof

namespace Sys2Proof.Machine

/-- Settles O1: each instruction is the round trip of its own format. -/
theorem decodeEncodeIsIdentity : Obligations.DecodeEncodeIsIdentity := by
  intro i hwf
  cases i with
  | transmitByte v => exact Laws.RoundTrip.transmitByte v hwf
  | sendCommand c => exact Laws.RoundTrip.sendCommand c hwf
  | sendData d => exact Laws.RoundTrip.sendData d hwf
  | hardwareReset => exact Laws.RoundTrip.hardwareReset hwf
  | waitUntilReady => exact Laws.RoundTrip.waitUntilReady hwf
  | initializeOp => exact Laws.RoundTrip.initializeOp hwf
  | refreshAndSleep => exact Laws.RoundTrip.refreshAndSleep hwf
  | reservedOp7 => cases hwf
  | uCmd p v => exact Laws.RoundTrip.uCmd p v hwf
  | uDat p v => exact Laws.RoundTrip.uDat p v hwf
  | uRst p l => exact Laws.RoundTrip.uRst p l hwf
  | uDly p d => exact Laws.RoundTrip.uDly p d hwf
  | uWrdy p => exact Laws.RoundTrip.uWrdy p hwf
  | uEnd p => exact Laws.RoundTrip.uEnd p hwf
  | powerSetting => exact Laws.RoundTrip.powerSetting hwf
  | powerOn => exact Laws.RoundTrip.powerOn hwf
  | panelSetting => exact Laws.RoundTrip.panelSetting hwf
  | resolutionSetting => exact Laws.RoundTrip.resolutionSetting hwf
  | cmd15 => exact Laws.RoundTrip.cmd15 hwf
  | vcomDataInterval => exact Laws.RoundTrip.vcomDataInterval hwf
  | tconSetting => exact Laws.RoundTrip.tconSetting hwf
  | startDataWrite => exact Laws.RoundTrip.startDataWrite hwf
  | displayRefresh => exact Laws.RoundTrip.displayRefresh hwf
  | powerOff => exact Laws.RoundTrip.powerOff hwf
  | deepSleep => exact Laws.RoundTrip.deepSleep hwf
  | dataFrame b => exact Laws.RoundTrip.dataFrame b hwf
  | commandFrameOther b => exact Laws.RoundTrip.commandFrameOther b hwf

/-- Settles O2: the three fields of a word that decodes are those of the entry. -/
theorem romWordIsItsEntrysEncoding : Obligations.RomWordIsItsEntrysEncoding := by
  intro w e h
  rw [← entryWord_fields w] at h
  obtain ⟨hp, hk, hv⟩ := (decodeEntry_word_eq_ok_iff _ _ _ e).1 h
  rw [encodeEntry, hp, hk, hv, entryWord_fields]

/-- The annotation codes are 0 to 4 (R65). -/
theorem exists_annot_code_iff (p : BitVec 3) : (∃ a : Annot, a.code = p) ↔ p.toNat ≤ 4 := by
  constructor
  · rintro ⟨a, rfl⟩
    cases a <;> decide
  · intro h
    have hp : p = Annot.keep.code ∨ p = Annot.resetting.code ∨ p = Annot.configuring.code ∨
        p = Annot.ready.code ∨ p = Annot.sleeping.code := by
      revert p; decide
    obtain rfl | rfl | rfl | rfl | rfl := hp <;> exact ⟨_, rfl⟩

/-- The delay selectors are 0 to 4 (R67). -/
theorem exists_delaySel_code_iff (v : Byte) : (∃ d : DelaySel, d.code = v) ↔ v.toNat ≤ 4 := by
  constructor
  · rintro ⟨d, rfl⟩
    cases d <;> decide
  · intro h
    have hv : v = DelaySel.rstPre.code ∨ v = DelaySel.rstLow.code ∨ v = DelaySel.rstPost.code ∨
        v = DelaySel.pon.code ∨ v = DelaySel.refresh.code := by
      simp only [DelaySel.code]; bv_omega
    obtain rfl | rfl | rfl | rfl | rfl := hv <;> exact ⟨_, rfl⟩

/-- The kinds and operands of the micro-operations (R66, R67). -/
theorem exists_microOp_iff (k : BitVec 3) (v : Byte) :
    (∃ o : MicroOp, o.kind = k ∧ o.operand = v) ↔
      (k = 0 ∨ k = 1 ∨ (k = 2 ∧ v.toNat ≤ 1) ∨ (k = 3 ∧ v.toNat ≤ 4) ∨ (k = 4 ∧ v = 0) ∨
        (k = 5 ∧ v = 0)) := by
  constructor
  · rintro ⟨o, rfl, rfl⟩
    cases o with
    | cmd v => exact .inl rfl
    | dat v => exact .inr (.inl rfl)
    | rst l => exact .inr (.inr (.inl ⟨rfl, by cases l <;> decide⟩))
    | dly d => exact .inr (.inr (.inr (.inl ⟨rfl, (exists_delaySel_code_iff _).1 ⟨d, rfl⟩⟩)))
    | wrdy => exact .inr (.inr (.inr (.inr (.inl ⟨rfl, rfl⟩))))
    | done => exact .inr (.inr (.inr (.inr (.inr ⟨rfl, rfl⟩))))
  · rintro (rfl | rfl | ⟨rfl, h⟩ | ⟨rfl, h⟩ | ⟨rfl, rfl⟩ | ⟨rfl, rfl⟩)
    · exact ⟨.cmd v, rfl, rfl⟩
    · exact ⟨.dat v, rfl, rfl⟩
    · exact ⟨.rst _, rfl, operand_rst_lvl h⟩
    · obtain ⟨d, hd⟩ := (exists_delaySel_code_iff v).2 h
      exact ⟨.dly d, rfl, hd⟩
    · exact ⟨.wrdy, rfl, rfl⟩
    · exact ⟨.done, rfl, rfl⟩

/-- Settles O5: a word decodes when its annotation is a code and its kind and operand are those of a
micro-operation. -/
theorem reservedRomWordsAreRejected : Obligations.ReservedRomWordsAreRejected := by
  intro p k v
  rw [← exists_annot_code_iff, ← exists_microOp_iff]
  simp only [decodeEntry_word_eq_ok_iff]
  constructor
  · rintro ⟨e, hp, hk⟩
    exact ⟨⟨e.annot, hp⟩, e.op, hk⟩
  · rintro ⟨⟨a, ha⟩, o, hk⟩
    exact ⟨⟨a, o⟩, ha, hk⟩

/-! ## Frame words -/

/-- A code that is none of the eleven named ones is sent as it is (R69). -/
theorem commandFrame_of_not_named {b : Byte} (h : b ∉ namedCodes) :
    commandFrame b = .commandFrameOther b := by
  simp only [namedCodes, List.mem_cons, List.not_mem_nil, or_false, not_or] at h
  simp only [commandFrame, h, if_false]

/-- The command frame of a code is well formed and encodes to the code (R58, R60, R69). -/
theorem encode_commandFrame (b : Byte) :
    encode (commandFrame b) = (frameWord .cmd b).setWidth 16 ∧ (commandFrame b).wf = true ∧
      (commandFrame b).format = .frame := by
  by_cases h : b ∈ namedCodes
  · revert b; decide
  · rw [commandFrame_of_not_named h]
    exact ⟨rfl, by simpa [Instr.wf] using h, rfl⟩

/-- A frame is well formed and encodes to its word (R58, R69). -/
theorem encode_frameInstr (m : FrameMode) (b : Byte) :
    encode (frameInstr m b) = (frameWord m b).setWidth 16 ∧ (frameInstr m b).wf = true ∧
      (frameInstr m b).format = .frame := by
  cases m with
  | cmd => exact encode_commandFrame b
  | dat => exact ⟨rfl, rfl, rfl⟩

/-- A frame word is made of its type and its byte (R58). -/
theorem frameWord_fields (w : FrameWord) : frameWord (frameMode w) (frameByte w) = w := by
  have ht : (frameMode w).bit = w.extractLsb' 8 1 := by
    rw [frameMode, BitVec.getLsbD_eq_extractLsb']
    generalize w.extractLsb' 8 1 = t
    revert t; decide
  rw [frameWord, ht, frameByte,
    BitVec.extractLsb'_append_extractLsb'_eq_extractLsb' (show 8 = 0 + 8 from rfl)]
  exact BitVec.extractLsb'_eq_self

/-- Settles O3: a frame word decodes to the frame of its type and byte. -/
theorem frameWordIsItsFramesEncoding : Obligations.FrameWordIsItsFramesEncoding := by
  intro w
  have h := encode_frameInstr (frameMode w) (frameByte w)
  rwa [frameWord_fields] at h

/-! ## Host requests -/

/-- Settles O4: the two fields of a request read back, by operation code. -/
theorem requestDecodesByOperationCode : Obligations.RequestDecodesByOperationCode := by
  intro arg
  have hop (o : BitVec 3) : requestOp (o ++ arg) = o := requestOp_requestWord o arg
  have harg (o : BitVec 3) : requestArg (o ++ arg) = arg := requestArg_requestWord o arg
  simp [decodeRequest, hop, harg]

/-- Settles O19: code 7 decodes to the reserved operation, whatever its byte. -/
theorem reservedOperationIsRefused : Obligations.ReservedOperationIsRefused := by
  refine ⟨fun _ => rfl, fun arg ws s ho hr => ?_⟩
  obtain ⟨-, -, -, -, -, -, -, h7⟩ := requestDecodesByOperationCode arg
  rw [step_request s _ ws ho hr, h7]
  rfl

/-! ## Written words and lines -/

/-- Settles O6: each of the nine words is decoded. -/
theorem writtenOutWordsDecode : Obligations.WrittenOutWordsDecode := by
  exact ⟨rfl, rfl, rfl, rfl, rfl, rfl, rfl, rfl, rfl⟩

/-- Settles O8: the nine lines are read. -/
theorem writtenProgramAssembles : Obligations.WrittenProgramAssembles := by
  unfold Obligations.WrittenProgramAssembles
  decide

end Sys2Proof.Machine

/-! # Frames -/

namespace Sys2Proof.Machine

/-- The start of a frame where one is due, with its whole effect (R90). -/
theorem sendFrame_eq (m : FrameMode) (b : Byte) (s : State) (ht : s.tstate = .idle)
    (hf : s.fstate = .dc) :
    sendFrame m b s = .next
      { s with
        dc := dcLevel s.cfg m, sr := b, bitcnt := 8, tstate := .csl, fstate := .xmit
        trace := s.trace ++ [.w .dc (dcLevel s.cfg m)] } := by
  rw [sendFrame, whenFrameDue_pos _ ((frameDue_iff s).2 ⟨ht, hf⟩)]
  rfl

/-- Settles O21: a named frame is the command frame of its code, and every frame starts alike. -/
theorem framesStart : Obligations.FramesStart := by
  intro s ht hf
  refine ⟨fun p hp => ?_, fun b => sendFrame_eq .cmd b s ht hf, fun b => sendFrame_eq .dat b s ht hf⟩
  have hrow : frameInstr .cmd p.2 = p.1 := by
    revert p; decide
  rw [← hrow, exec_frameInstr]
  exact sendFrame_eq .cmd p.2 s ht hf

/-! ## The transactions of the panel commands -/

/-- The ROM holds `uDAT` entries with the bytes `ds` from address `a` on, and an entry after them. -/
def romHoldsData (a : Nat) : List Byte → Bool
  | [] => (romEntry a).isSome
  | d :: ds => decide (romEntry a = some ⟨.keep, .dat d⟩) && romHoldsData (a + 1) ds

/-- The sequencer is at address `a` and has armed the framer with the byte `v` of mode `m` (R96). -/
structure ArmedAt (a : Nat) (m : FrameMode) (v : Byte) (s : State) : Prop where
  upc : s.upc = BitVec.ofNat 6 a
  op : isSequencerOp s.op = true
  tstate : s.tstate = .idle
  fstate : s.fstate = .dc
  fmode : s.fmode = m
  arg : s.arg = v

/-- After a frame of the sequencer the next entry has been started (R96, R97, R98). -/
theorem ArmedAt.run_frame {a : Nat} {m : FrameMode} {v : Byte} {s : State} {e e' : RomEntry}
    (hs : ArmedAt a m v s) (he : romEntry a = some e) (he' : romEntry (a + 1) = some e') :
    ∃ u : State, run 27 s = .next (startMicro e' u) ∧ u.cfg = s.cfg ∧ u.op = s.op ∧
      u.tstate = .idle ∧ u.upc = BitVec.ofNat 6 (a + 1) ∧
      u.trace = s.trace ++ traceFrame s.cfg m v := by
  obtain ⟨hu, ho, ht, hf, rfl, rfl⟩ := hs
  exact ⟨_, frameEntry_run a e e' s hu he he' ho ht hf, rfl, rfl, rfl, rfl, rfl⟩

/-- From an armed frame the sequencer sends it and the frames of the `uDAT` entries that follow, and
then is at the next entry (R59, R97, R98). -/
theorem ArmedAt.run_data {a : Nat} {m : FrameMode} {v : Byte} {s : State} {e : RomEntry}
    {ds : List Byte} (hs : ArmedAt a m v s) (he : romEntry a = some e)
    (hds : romHoldsData (a + 1) ds = true) :
    ∃ t : State, run (27 * (ds.length + 1)) s = .next t ∧
      t.trace = s.trace ++ (traceFrame s.cfg m v ++ ds.flatMap (traceFrame s.cfg .dat)) ∧
      t.upc.toNat = a + ds.length + 1 := by
  induction ds generalizing a m v s e with
  | nil =>
    obtain ⟨e', he'⟩ := Option.isSome_iff_exists.1 hds
    obtain ⟨u, hrun, -, -, -, hupc, htrace⟩ := hs.run_frame he he'
    obtain ⟨htrace', -, -, -, -, hupc', -⟩ := startMicro_frame e' u
    refine ⟨_, hrun, by simp [htrace', htrace], ?_⟩
    rw [hupc', hupc, upc_toNat (lt_of_romEntry he')]
    rfl
  | cons d ds ih =>
    obtain ⟨hd, hds⟩ : romEntry (a + 1) = some ⟨.keep, .dat d⟩ ∧
        romHoldsData (a + 1 + 1) ds = true := by
      simpa [romHoldsData] using hds
    obtain ⟨u, hrun, hcfg, hop, hts, hupc, htrace⟩ := hs.run_frame he hd
    have hu : ArmedAt (a + 1) .dat d (armFrame .dat d u) :=
      ⟨hupc, (congrArg isSequencerOp hop).trans hs.op, hts, rfl, rfl, rfl⟩
    obtain ⟨t, hrun', htrace', hupc'⟩ := ih hu hd hds
    refine ⟨t, run_chain 27 _ hrun ?_ hrun', ?_, ?_⟩
    · rw [List.length_cons]; omega
    · simp [htrace', htrace, hcfg]
    · rw [hupc', List.length_cons]; omega

/-- A due frame of the invariant at a `uCMD` entry is the one that entry asks for (R97). -/
theorem armedAt_of_inv {s : State} {p : Annot} {v : Byte} (hs : machineInv s = true)
    (ho : isSequencerOp s.op = true) (he : romEntry s.upc.toNat = some ⟨p, .cmd v⟩)
    (hf : s.fstate = .dc) : ArmedAt s.upc.toNat .cmd v s := by
  obtain ⟨-, -, -, -, -, hl, -, -⟩ := (machineInv_iff s).1 hs
  rw [layersOk_of_sequencer ho] at hl
  obtain ⟨-, ⟨ht, hm⟩, harg⟩ : programOf s.upc.toNat = s.op ∧
      (s.tstate = .idle ∧ s.fmode = .cmd) ∧ s.arg = v := by
    simpa [microOk, he, framePhase, hf] using hl
  exact ⟨by simp, ho, ht, hf, hm, harg⟩

/-- The rows of R60 are the command frames of their codes, and the ROM holds each with its data bytes at
its address (R110 to R120). -/
theorem panelCommands_listed : ∀ p ∈ panelCommands,
    commandFrame p.code = p.instr ∧ romEntry p.addr = some ⟨.keep, .cmd p.code⟩ ∧
      romHoldsData (p.addr + 1) p.data = true := by decide

/-- The word of a command frame is its code (R58). -/
theorem frameWord_cmd_setWidth (b : Byte) : (frameWord .cmd b).setWidth 16 = b.setWidth 16 := by
  have h : (frameWord .cmd b).toNat = b.toNat := (BitVec.toNat_append 0#1 b).trans (by simp)
  apply BitVec.eq_of_toNat_eq
  rw [BitVec.toNat_setWidth, BitVec.toNat_setWidth, h]

/-- Settles O53: the invariant says the framer is armed with the command's code, and the ROM holds its
data bytes in the entries that follow. -/
theorem panelCommandsSendTheirFrames : Obligations.PanelCommandsSendTheirFrames := by
  intro p hp
  obtain ⟨hrow, hcmd, hdata⟩ := panelCommands_listed p hp
  have hdec : decodeFrame (frameWord .cmd p.code) = p.instr :=
    (decodeFrame_frameWord .cmd p.code).trans hrow
  refine ⟨?_, hdec, fun s hs hupc hop hf => ?_⟩
  · obtain ⟨henc, -⟩ := encode_commandFrame p.code
    rw [← hrow, henc, frameWord_cmd_setWidth]
  · have ho : isSequencerOp s.op = true := by rw [hop]; exact isSequencerOp_programOf _
    have harmed := armedAt_of_inv hs ho (by rw [hupc]; exact hcmd) hf
    rw [hupc] at harmed
    refine ⟨?_, harmed.run_data hcmd hdata⟩
    rw [step_frame s (op_ne_idle ho) harmed.tstate hf, harmed.fmode, harmed.arg, hdec]

end Sys2Proof.Machine

/-! # The transport

One equation for each phase of a byte, the count of its events, and the run of TRANSMIT_BYTE. -/

namespace Sys2Proof.Machine

/-! ## The steps of a byte -/

section Phases

variable {s : State}

theorem step_of_csl (ho : s.op ≠ .idle) (ht : s.tstate = .csl) :
    step s = .next (stepAssertCs s) := by
  rw [step_transport s ho (by simp [ht]), transportStep, ht]

theorem step_of_setd (ho : s.op ≠ .idle) (ht : s.tstate = .setd) :
    step s = .next (stepSetData s) := by
  rw [step_transport s ho (by simp [ht]), transportStep, ht]

theorem step_of_ckh (ho : s.op ≠ .idle) (ht : s.tstate = .ckh) :
    step s = .next (stepClockHigh s) := by
  rw [step_transport s ho (by simp [ht]), transportStep, ht]

theorem step_of_ckl (ho : s.op ≠ .idle) (ht : s.tstate = .ckl) :
    step s = .next (stepClockLow s) := by
  rw [step_transport s ho (by simp [ht]), transportStep, ht]

theorem step_of_csh (ho : s.op ≠ .idle) (ht : s.tstate = .csh) : step s = stepReleaseCs s := by
  rw [step_transport s ho (by simp [ht]), transportStep, ht]

end Phases

/-- The shift drops bit 7 and puts a zero below the seven others (R78). -/
theorem shiftLeft_eq_append (v : Byte) : shiftLeft v = v.extractLsb' 0 7 ++ (0 : BitVec 1) :=
  BitVec.shiftLeft_eq_concat_of_lt (by decide)

/-- Settles O11: one equation for each phase; at `T_CKL` the shift and the count are those of R78. -/
theorem transportStepsOfAByte : Obligations.TransportStepsOfAByte := by
  intro s ho
  refine ⟨step_of_csl ho, step_of_setd ho, step_of_ckh ho, fun ht n hn => ?_⟩
  have hcount : countDown s.bitcnt = n := Fin.ext (by simp only [countDown]; omega)
  rw [step_of_ckl ho ht, stepClockLow, hcount, shiftLeft_eq_append]
  simp [noBitsLeft, pinWrite, setPin, emit]

/-- The release of chip-select, with its whole effect (R79). -/
theorem releaseCs_eq (s : State) :
    releaseCs s =
      { s with
        cs := .H, tstate := .idle, fstate := if s.fstate = .xmit then .idle else s.fstate
        trace := s.trace ++ [.w .cs .H] } := by
  cases hf : s.fstate <;> simp [releaseCs, framerReturn, hf, pinWrite, setPin, emit]

/-- A byte operation returns when it releases chip-select (R79). -/
theorem stepReleaseCs_of_isByteOp {s : State} (hb : isByteOp s.op = true) :
    stepReleaseCs s = .next { releaseCs s with op := .idle } := by
  rw [stepReleaseCs, if_pos hb]

/-- A sequencer operation completes its micro-operation when it releases chip-select (R79). -/
theorem stepReleaseCs_of_isSequencerOp {s : State} (hq : isSequencerOp s.op = true) :
    stepReleaseCs s = complete (releaseCs s) := by
  have hb : isByteOp s.op = false := by cases ho : s.op <;> simp_all [isSequencerOp, isByteOp]
  simp [stepReleaseCs, hb]

/-- Settles O12: the operations of the two clauses are the byte operations and the sequencer's. -/
theorem transportReturn : Obligations.TransportReturn := by
  refine fun s ht => ⟨fun hop => ?_, fun hop => ?_⟩
  · have hb : isByteOp s.op = true := by rcases hop with h | h | h <;> rw [h] <;> rfl
    have ho : s.op ≠ .idle := fun h => by simp [h, isByteOp] at hb
    rw [step_of_csh ho ht, stepReleaseCs_of_isByteOp hb, releaseCs_eq]
  · have hq : isSequencerOp s.op = true := by rcases hop with h | h | h | h <;> rw [h] <;> rfl
    rw [step_of_csh (op_ne_idle hq) ht, stepReleaseCs_of_isSequencerOp hq, releaseCs_eq]

/-! ## A transmission is over after its events -/

/-- How many events a transmission still has: three for each bit left, the assertion of chip-select
before them and its release after them (R75 to R79, R81). -/
def eventsLeft (s : State) : Nat :=
  match s.tstate with
  | .idle => 0
  | .csl => 3 * s.bitcnt.val + 2
  | .setd => 3 * s.bitcnt.val + 1
  | .ckh => 3 * s.bitcnt.val
  | .ckl => 3 * s.bitcnt.val - 1
  | .csh => 1

/-- A transmission has at most the 26 events of a byte (R81). -/
theorem eventsLeft_le (s : State) : eventsLeft s ≤ 26 := by
  have := s.bitcnt.isLt
  unfold eventsLeft
  split <;> omega

/-- The last clock edge of a bit leaves the events of the bits that are left (R78). -/
theorem eventsLeft_stepClockLow {s : State} (hn : s.bitcnt ≠ 0) :
    eventsLeft (stepClockLow s) + 1 = 3 * s.bitcnt.val - 1 := by
  have hpos : s.bitcnt.val ≠ 0 := fun h => hn (Fin.ext h)
  have hlast : countDown s.bitcnt = 0 ↔ s.bitcnt.val - 1 = 0 := Fin.ext_iff
  by_cases h0 : countDown s.bitcnt = 0
  · simp [eventsLeft, stepClockLow, noBitsLeft, h0]; omega
  · have hcount : (countDown s.bitcnt).val = s.bitcnt.val - 1 := rfl
    simp [eventsLeft, stepClockLow, noBitsLeft, h0, hcount]; omega

/-- Completing an entry does not touch the transport (R96). -/
theorem tstate_of_completeWith {u t : State} {p : Annot} (h : completeWith p u = .next t) :
    t.tstate = u.tstate := by
  obtain ⟨r, rfl⟩ := completeWith_next h
  obtain ⟨-, -, -, -, htstate, -⟩ := startMicro_frame r
    { u with
      pstate := (annotState p).getD u.pstate, upc := BitVec.ofNat 6 (u.upc.toNat + 1) }
  exact htstate

/-- A step in a transmission leaves one event fewer. -/
theorem StepsTo.eventsLeft_add_one {s t : State} (h : StepsTo s t) (hs : machineInv s = true)
    (ht : s.tstate ≠ .idle) : eventsLeft t + 1 = eventsLeft s := by
  have hidle : s.op ≠ .idle := fun ho => ht (layersIdle_of_inv hs ho).1
  obtain ⟨-, -, hcount, -, -, -, -, -⟩ := (machineInv_iff s).1 hs
  cases h with
  | waits ho => exact absurd ho hidle
  | acceptsByte _ _ _ ho => exact absurd ho hidle
  | acceptsFrame _ _ _ _ ho => exact absurd ho hidle
  | acceptsProgram _ _ _ _ _ ho => exact absurd ho hidle
  | assertsCs _ hp => simp [eventsLeft, stepAssertCs, hp]
  | setsData _ hp => simp [eventsLeft, stepSetData, hp]
  | clockHigh _ hp =>
    have hn : s.bitcnt ≠ 0 := by simpa [countOk, hp] using hcount
    simp [eventsLeft, stepClockHigh, hp]; omega
  | clockLow _ hp =>
    rw [eventsLeft_stepClockLow (by simpa [countOk, hp] using hcount)]
    simp [eventsLeft, hp]
  | returnsByte _ hp => simp [eventsLeft, releaseCs, hp]
  | startsFrame _ ht' => exact absurd ht' ht
  | completes e u t _ _ hu hc =>
    cases hu with
    | release _ hp =>
      rw [eventsLeft, tstate_of_completeWith hc]
      simp [eventsLeft, releaseCs, hp]
    | reset _ _ hm => exact absurd (idle_and_busy_of_microDue hm).1 ht
    | pause _ _ hm => exact absurd (idle_and_busy_of_microDue hm).1 ht
    | extraWait _ hm _ => exact absurd (idle_and_busy_of_microDue hm).1 ht
  | samples _ hm => exact absurd (idle_and_busy_of_microDue hm).1 ht
  | polls _ hm => exact absurd (idle_and_busy_of_microDue hm).1 ht
  | starts _ hm => exact absurd (idle_and_busy_of_microDue hm).1 ht

/-- In a state of the invariant a transmission goes on, with one event fewer left. -/
theorem exists_step_of_transmission {s : State} (hs : machineInv s = true) (ht : s.tstate ≠ .idle) :
    ∃ t, step s = .next t ∧ machineInv t = true ∧ eventsLeft t + 1 = eventsLeft s := by
  obtain ⟨t, hstep⟩ := step_goesOn_of_busy hs fun ho => ht (layersIdle_of_inv hs ho).1
  have hto := stepsTo_of_step hstep
  exact ⟨t, hstep, inv_of_stepsTo hs hto, hto.eventsLeft_add_one hs ht⟩

/-- In a state of the invariant the transport is idle after the events it has left. -/
theorem run_eventsLeft {n : Nat} {s : State} (hs : machineInv s = true) (hn : eventsLeft s = n) :
    ∃ t, run n s = .next t ∧ t.tstate = .idle := by
  induction n generalizing s with
  | zero =>
    refine ⟨s, rfl, by_contra fun ht => ?_⟩
    obtain ⟨t, -, -, hleft⟩ := exists_step_of_transmission hs ht
    omega
  | succ n ih =>
    have ht : s.tstate ≠ .idle := fun h => by simp [eventsLeft, h] at hn
    obtain ⟨t, hstep, hinv, hleft⟩ := exists_step_of_transmission hs ht
    rw [run_step hstep]
    exact ih hinv (by omega)

/-- Settles O43: a transmission has at most 26 events left, and each step is one of them. -/
theorem transportIsIdleWithin26Steps : Obligations.TransportIsIdleWithin26Steps :=
  fun s hs _ => ⟨eventsLeft s, eventsLeft_le s, run_eventsLeft hs rfl⟩

/-! ## TRANSMIT_BYTE -/

/-- Settles O15: an idle core takes the request (R26), which loads the byte. -/
theorem transmitByteAccepted : Obligations.TransmitByteAccepted :=
  fun _ _ ho => whenIdle_pos _ ho

/-- Settles O44: the acceptance, the 25 events up to the last clock edge, and the release of
chip-select, which returns. -/
theorem transmitByteRun : Obligations.TransmitByteRun := by
  intro v ws s ho hf hr
  have haccept : step s = .next
      { s with requests := ws, sr := v, bitcnt := 8, tstate := .csl, op := .transmitByte } := by
    rw [step_accepts (i := .transmitByte v) (by simp [decodeRequest]) s ws ho hr]
    exact transmitByteAccepted v { s with requests := ws } ho
  rw [run_step haccept, run_add 25 1 _ _ (byte_run _ (by simp) rfl rfl), run_one,
    step_of_csh (by simp) rfl, stepReleaseCs_of_isByteOp rfl, releaseCs_eq]
  simp [ho, hf, traceX]

end Sys2Proof.Machine

/-! # The traces: counts, and the levels written to each pin -/

namespace Sys2Proof.Machine

/-! ## Counts of events and of pin writes -/

@[simp] theorem length_bitEvents (b : Bool) : (bitEvents b).length = 3 := rfl

@[simp] theorem countP_isWrite_bitEvents (b : Bool) : (bitEvents b).countP isWrite = 3 := rfl

@[simp] theorem length_bitsMsbFirst (v : Byte) : (bitsMsbFirst v).length = 8 := rfl

@[simp] theorem length_traceX (v : Byte) : (traceX v).length = 26 := by
  simp [traceX, List.length_flatMap]

/-- A byte is sent by pin writes only (R81). -/
@[simp] theorem countP_isWrite_traceX (v : Byte) : (traceX v).countP isWrite = 26 := by
  simp [traceX, List.countP_flatMap, List.countP_cons, Function.comp_def, isWrite]

@[simp] theorem length_traceFrame (c : Config) (m : FrameMode) (v : Byte) :
    (traceFrame c m v).length = 27 := by
  simp [traceFrame]

@[simp] theorem countP_isWrite_traceFrame (c : Config) (m : FrameMode) (v : Byte) :
    (traceFrame c m v).countP isWrite = 27 := by
  simp [traceFrame, List.countP_cons, isWrite]

/-- A transaction is one frame of 27 writes more than it has data bytes (R72, R92). -/
@[simp] theorem length_traceTxn (c : Config) (code : Byte) (ds : List Byte) :
    (traceTxn c code ds).length = 27 * (ds.length + 1) := by
  simp [traceTxn, List.length_flatMap]; omega

@[simp] theorem countP_isWrite_traceTxn (c : Config) (code : Byte) (ds : List Byte) :
    (traceTxn c code ds).countP isWrite = 27 * (ds.length + 1) := by
  simp [traceTxn, List.countP_flatMap, Function.comp_def]; omega

@[simp] theorem length_tracePolls (c : Config) (j : Nat) : (tracePolls c j).length = 2 * j := by
  induction j with
  | zero => rfl
  | succ j ih => simp [tracePolls, ih]; omega

/-- A poll is a sample and a wait, so it writes no pin (R101). -/
@[simp] theorem countP_isWrite_tracePolls (c : Config) (j : Nat) :
    (tracePolls c j).countP isWrite = 0 := by
  induction j with
  | zero => rfl
  | succ j ih => simpa [tracePolls, isWrite] using ih

@[simp] theorem length_traceWait (c : Config) (j : Nat) : (traceWait c j).length = 2 * j + 2 := by
  simp [traceWait]

@[simp] theorem countP_isWrite_traceWait (c : Config) (j : Nat) :
    (traceWait c j).countP isWrite = 0 := by
  rw [traceWait, List.countP_append, countP_isWrite_tracePolls]
  rfl

/-- INITIALIZE has six events of the reset, 21 frames, a delay and a busy wait (R123, R124). -/
theorem length_traceInit (c : Config) (j : Nat) : (traceInit c j).length = 2 * j + 576 := by
  simp [traceInit, traceInitHead, traceInitTail, traceReset]; omega

/-- The writes of INITIALIZE are those of its 21 frames and three of the reset line (R124). -/
theorem countP_isWrite_traceInit (c : Config) (j : Nat) :
    (traceInit c j).countP isWrite = 570 := by
  simp [traceInit, traceInitHead, traceInitTail, traceReset, List.countP_cons, isWrite]

/-- REFRESH_AND_SLEEP has four frames, a delay and a busy wait (R129). -/
theorem length_traceRefresh (c : Config) (j : Nat) : (traceRefresh c j).length = 2 * j + 111 := by
  simp [traceRefresh, traceRefreshHead, traceRefreshTail]; omega

/-- The writes of REFRESH_AND_SLEEP are those of its four frames (R129). -/
theorem countP_isWrite_traceRefresh (c : Config) (j : Nat) :
    (traceRefresh c j).countP isWrite = 108 := by
  simp [traceRefresh, traceRefreshHead, traceRefreshTail, isWrite]

/-- Settles O56: the counts of a byte, a frame, a busy wait and the two sequences. -/
theorem eventAndWriteCounts : Obligations.EventAndWriteCounts := fun v m c j =>
  ⟨length_traceX v, countP_isWrite_traceX v, length_traceFrame c m v,
    countP_isWrite_traceFrame c m v, length_traceWait c j, countP_isWrite_traceWait c j,
    length_traceInit c j, countP_isWrite_traceInit c j, length_traceRefresh c j,
    countP_isWrite_traceRefresh c j⟩

/-! ## The levels written to each pin -/

@[simp] theorem levelsWritten_append (p : OutPin) (es es' : List Event) :
    levelsWritten p (es ++ es') = levelsWritten p es ++ levelsWritten p es' := by
  induction es with
  | nil => rfl
  | cons e es ih =>
    cases e with
    | w q l => by_cases hq : q = p <;> simp [levelsWritten, hq, ih]
    | s l => exact ih
    | t n => exact ih

theorem levelsWritten_flatMap (p : OutPin) {α : Type} (f : α → List Event) (xs : List α) :
    levelsWritten p (xs.flatMap f) = xs.flatMap fun x => levelsWritten p (f x) := by
  induction xs with
  | nil => rfl
  | cons x xs ih => simp [ih]

/-- A byte writes each bit to the data line, the most significant first (R43, R84). -/
theorem levelsWritten_din_traceX (v : Byte) :
    levelsWritten .din (traceX v) = (bitsMsbFirst v).map lvl := by
  simp [traceX, levelsWritten_flatMap, levelsWritten, bitEvents, List.map_eq_flatMap]

/-- A byte raises and lowers the clock once for each bit (R84). -/
theorem levelsWritten_sck_traceX (v : Byte) :
    levelsWritten .sck (traceX v) = (List.replicate 8 [Level.H, .L]).flatten := by
  simp [traceX, levelsWritten, bitEvents, bitsMsbFirst]

/-- A byte has one chip-select window (R85). -/
theorem levelsWritten_cs_traceX (v : Byte) : levelsWritten .cs (traceX v) = [.L, .H] := by
  simp [traceX, levelsWritten_flatMap, levelsWritten, bitEvents]

/-- A byte writes neither the mode-select line nor the reset line (R84, R85). -/
theorem levelsWritten_traceX_eq_nil {p : OutPin} (v : Byte) (hp : p = .dc ∨ p = .rst) :
    levelsWritten p (traceX v) = [] := by
  obtain rfl | rfl := hp
  all_goals simp [traceX, levelsWritten_flatMap, levelsWritten, bitEvents]

/-- Settles O57: what a byte writes to each pin. -/
theorem clockAndDataOfAByte : Obligations.ClockAndDataOfAByte := fun v =>
  ⟨levelsWritten_din_traceX v, levelsWritten_sck_traceX v, levelsWritten_cs_traceX v,
    levelsWritten_traceX_eq_nil v (.inl rfl), levelsWritten_traceX_eq_nil v (.inr rfl)⟩

/-! ## Changes of level -/

/-- No more levels change than are written. -/
theorem levelChanges_le_length (d : Level) (ls : List Level) : levelChanges d ls ≤ ls.length := by
  induction ls generalizing d with
  | nil => exact Nat.le_refl 0
  | cons l ls ih =>
    have := ih l
    rw [levelChanges, List.length_cons]
    split <;> omega

/-- No level changes exactly when every write repeats the level before. -/
theorem levelChanges_eq_zero_iff (d : Level) (ls : List Level) :
    levelChanges d ls = 0 ↔ ∀ l ∈ ls, l = d := by
  induction ls with
  | nil => simp [levelChanges]
  | cons l ls ih =>
    by_cases hl : l = d
    · simp [levelChanges, hl, ih]
    · simp [levelChanges, hl]

theorem lvl_eq_iff (b : Bool) (d : Level) : lvl b = d ↔ b = d.toBool := by
  cases b <;> cases d <;> decide

/-- The bits of a byte are all alike exactly in the two bytes filled with one bit. -/
theorem forall_bitsMsbFirst_eq_iff (v : Byte) (b : Bool) :
    (∀ x ∈ bitsMsbFirst v, x = b) ↔ v = BitVec.fill 8 b := by
  constructor
  · intro h
    refine BitVec.eq_of_getLsbD_eq fun i hi => ?_
    have hmem : i ∈ [7, 6, 5, 4, 3, 2, 1, 0] := by simp; omega
    rw [BitVec.getLsbD_fill, h _ (List.mem_map_of_mem hmem)]
    simp [hi]
  · rintro rfl
    simp [bitsMsbFirst, BitVec.getLsbD_fill]

/-- Settles O58: the data line is written eight times, and none of the writes changes it exactly when
every bit of the byte has its level. -/
theorem levelChangesOfAByte : Obligations.LevelChangesOfAByte := by
  intro v d
  rw [levelsWritten_cs_traceX, levelsWritten_sck_traceX, levelsWritten_din_traceX]
  refine ⟨rfl, rfl, levelChanges_le_length d _, ?_⟩
  have hbits : (∀ l ∈ (bitsMsbFirst v).map lvl, l = d) ↔ v = BitVec.fill 8 d.toBool := by
    simp only [List.forall_mem_map, lvl_eq_iff]
    exact forall_bitsMsbFirst_eq_iff v d.toBool
  rw [levelChanges_eq_zero_iff, hbits]
  cases d <;> simp [Level.toBool, BitVec.fill]

end Sys2Proof.Machine

/-! # The framer: SEND_COMMAND and SEND_DATA -/

namespace Sys2Proof.Machine

/-- Settles O16: an idle core takes either request (R26), which arms the framer. -/
theorem framedRequestsAccepted : Obligations.FramedRequestsAccepted :=
  fun _ _ ho => ⟨whenIdle_pos _ ho, whenIdle_pos _ ho⟩

/-- The mode-select level of a frame is `DC_CMD` or the other level (R11, R58). -/
theorem dcLevel_eq_ite (c : Config) (m : FrameMode) :
    dcLevel c m = if m = .cmd then c.dcCmd else c.dcCmd.other := by
  cases m <;> rfl

/-- Settles O20: the frame word `{FMODE, ARG}` runs as the frame of that mode and byte. -/
theorem framerStep : Obligations.FramerStep := by
  intro s ho ht hf
  rw [← dcLevel_eq_ite, step_frame s ho ht hf, decodeFrame_frameWord, exec_frameInstr]
  exact sendFrame_eq s.fmode s.arg s ht hf

/-- The operation under which the host sends a frame is a byte operation (R88, R89). -/
theorem isByteOp_frameOp_idle (m : FrameMode) : isByteOp (frameOp m .idle) = true := by
  cases m <;> rfl

/-- A byte operation is not idle (R26). -/
theorem op_ne_idle_of_isByteOp {o : Op} (h : isByteOp o = true) : o ≠ .idle := by
  rintro rfl; cases h

/-- A byte operation whose frame is due sends it in 27 events and returns (R90, R79). -/
theorem frame_run_of_isByteOp {s : State} (hb : isByteOp s.op = true) (ht : s.tstate = .idle)
    (hf : s.fstate = .dc) :
    run 27 s = .next
      { s with
        dc := dcLevel s.cfg s.fmode, cs := .H, sck := .L, din := lvl (s.arg.getLsbD 0)
        sr := 0, bitcnt := 0, tstate := .idle, fstate := .idle, op := .idle
        trace := s.trace ++ traceFrame s.cfg s.fmode s.arg } := by
  rw [frame_run s (op_ne_idle_of_isByteOp hb) ht hf, stepReleaseCs_of_isByteOp (by exact hb),
    releaseCs_eq]
  simp [traceFrame, traceX]

/-- Settles O45: the acceptance arms the framer, whose frame is then sent under a byte operation. -/
theorem framedByteRun : Obligations.FramedByteRun := by
  intro m v ws s ho ht hr
  have haccept : step s = .next
      { s with requests := ws, op := frameOp m .idle, arg := v, fmode := m, fstate := .dc } := by
    obtain ⟨hcmd, hdat⟩ := framedRequestsAccepted v { s with requests := ws } ho
    cases m with
    | cmd => rw [step_accepts (i := .sendCommand v) (by simp [decodeRequest]) s ws ho hr, hcmd]; rfl
    | dat => rw [step_accepts (i := .sendData v) (by simp [decodeRequest]) s ws ho hr, hdat]; rfl
  rw [run_step haccept, frame_run_of_isByteOp (by exact isByteOp_frameOp_idle m) (by exact ht) rfl]
  simp [ho]

end Sys2Proof.Machine

/-! # The sequencer

What entering, completing and each micro-operation do, and the run of WAIT_UNTIL_READY. -/

namespace Sys2Proof.Machine

/-! ## Entering and completing (R96) -/

/-- The end of a program is an update of `PSTATE`, `STATUS` and `OP` (R102). -/
theorem endProgram_eq (p : Annot) (s : State) :
    endProgram p s =
      { s with pstate := (annotState p).getD s.pstate, status := 0, op := .idle } := by
  rw [endProgram, annotate_eq]
  rfl

/-- Settles O22: entering starts the entry, and only the end of a program is annotated then. -/
theorem enterByKind : Obligations.EnterByKind := by
  intro a e s he
  rw [enter_some s he]
  obtain ⟨p, o⟩ := e
  cases o with
  | done => exact congrArg Host.Outcome.next (endProgram_eq p _)
  | _ => rfl

/-- Settles O23: the annotation is that of the entry at `UPC`. -/
theorem completeEntersTheNext : Obligations.CompleteEntersTheNext := by
  intro e s he
  rw [complete_some s he, completeWith, annotate_eq]

/-! ## Acceptance (R96) -/

/-- The entries at the first addresses of the four programs (R108, R122, R128). -/
theorem romEntry_first :
    romEntry 0 = some ⟨.resetting, .rst .H⟩ ∧ romEntry 7 = some ⟨.keep, .wrdy⟩ ∧
      romEntry 9 = some ⟨.resetting, .rst .H⟩ ∧ romEntry 39 = some ⟨.keep, .cmd 0x12⟩ := by
  decide

/-- Settles O17: an idle core starts the first entry of the operation's program. -/
theorem sequencerRequestsAccepted : Obligations.SequencerRequestsAccepted := by
  intro s ho
  obtain ⟨hreset, hwait, hinit, hrefresh⟩ := romEntry_first
  exact ⟨accept_some .hardwareReset 0 _ hreset s ho, accept_some .waitUntilReady 7 _ hwait s ho,
    accept_some .initializeOp 9 _ hinit s ho, accept_some .refreshAndSleep 39 _ hrefresh s ho⟩

/-! ## The micro-operations (R97 to R102) -/

/-- Settles O27: each of the three does the work of Enter where a micro-operation is due. -/
theorem frameAndEndMicroOps : Obligations.FrameAndEndMicroOps := by
  intro p v s hm
  refine ⟨whenMicroDue_pos _ hm, whenMicroDue_pos _ hm, ?_⟩
  rw [exec, execUEnd, whenMicroDue_pos _ hm, endProgram_eq]

/-- Settles O24: each of the two emits its event and completes. -/
theorem resetAndDelayMicroOps : Obligations.ResetAndDelayMicroOps := by
  intro p l d e s hm he
  constructor
  · rw [exec, execURst, whenMicroDue_pos _ hm, completeWith_some (pinWrite .rst l s) he]
    rfl
  · rw [exec, execUDly, whenMicroDue_pos _ hm, completeWith_some (delay (delayOf s.cfg d) s) he]
    cases d <;> rfl

/-! ## The busy wait (R101, R139) -/

/-- A sample that sees ready ends the polling (R101). -/
theorem afterSample_H (u : State) : afterSample .H u = { u with wstate := .final } := rfl

/-- Without a timeout a sample that sees busy polls again (R101). -/
theorem afterSample_L_of_none {u : State} (h : u.cfg.busyTimeout = none) :
    afterSample .L u = { u with wstate := .poll } := by
  simp [afterSample, busyReady, h]

/-- With a timeout a sample that sees busy is counted, and polls again below the timeout (R139). -/
theorem afterSample_L_of_ne {u : State} {n : Nat} (h : u.cfg.busyTimeout = some n)
    (hn : u.pollcnt + 1 ≠ n) :
    afterSample .L u = { u with pollcnt := u.pollcnt + 1, wstate := .poll } := by
  simp [afterSample, busyReady, h, waitGivesUp, hn.symm]

/-- The wait gives up at the busy sample that brings the count to the timeout (R139). -/
theorem afterSample_L_of_eq {u : State} (h : u.cfg.busyTimeout = some (u.pollcnt + 1)) :
    afterSample .L u = abandonWait { u with pollcnt := u.pollcnt + 1 } := by
  simp [afterSample, busyReady, h, waitGivesUp]

/-- A sample that sees `l` is the event `S(l)` and uses up one draw (R18, R21). -/
theorem pinRead_of_busyLevel {s : State} {l : Level} (hl : busyLevel s = l) :
    pinRead s =
      { s with
        busyIn := s.busyIn.tail, sampleNo := s.sampleNo + 1, trace := s.trace ++ [.s l] } := by
  rw [pinRead, hl]
  rfl

/-- At `W_SAMPLE` a `uWRDY` takes a sample (R101). -/
theorem exec_uWrdy_of_sample {s : State} {l : Level} (p : Annot) (hm : microDue s = true)
    (hw : s.wstate = .sample) (hl : busyLevel s = l) :
    exec (.uWrdy p) s = .next (afterSample l
      { s with
        busyIn := s.busyIn.tail, sampleNo := s.sampleNo + 1, trace := s.trace ++ [.s l] }) := by
  rw [← pinRead_of_busyLevel hl, exec, execUWrdy, whenMicroDue_pos _ hm, hw, hl]

/-- At `W_POLL` a `uWRDY` waits and goes back to sampling (R101). -/
theorem exec_uWrdy_of_poll {s : State} (p : Annot) (hm : microDue s = true)
    (hw : s.wstate = .poll) :
    exec (.uWrdy p) s = .next { delay s.cfg.nPoll s with wstate := .sample } := by
  rw [exec, execUWrdy, whenMicroDue_pos _ hm, hw]

/-- At `W_FINAL` a `uWRDY` waits once more and completes (R101). -/
theorem exec_uWrdy_of_final {s : State} (p : Annot) (hm : microDue s = true)
    (hw : s.wstate = .final) :
    exec (.uWrdy p) s = completeWith p (delay s.cfg.nPoll s) := by
  rw [exec, execUWrdy, whenMicroDue_pos _ hm, hw]

/-- Settles O25: what the sample leads to, by its level and the timeout. -/
theorem busyWaitSample : Obligations.BusyWaitSample := by
  intro p s hm hw
  refine ⟨fun hH => ?_, fun hL hc => ?_, fun n hL hc hn => ?_, fun n hL hc hn => ?_⟩
  · rw [exec_uWrdy_of_sample p hm hw hH, afterSample_H]
  · rw [exec_uWrdy_of_sample p hm hw hL, afterSample_L_of_none (by exact hc)]
  · rw [exec_uWrdy_of_sample p hm hw hL, afterSample_L_of_ne (by exact hc) (by exact hn)]
  · subst hn
    rw [exec_uWrdy_of_sample p hm hw hL, afterSample_L_of_eq (by exact hc)]
    rfl

/-- Settles O26: the poll wait is one event, and after the final wait the entry completes. -/
theorem busyWaitDelays : Obligations.BusyWaitDelays := by
  intro p s hm
  refine ⟨fun hw => exec_uWrdy_of_poll p hm hw, fun e hw he => ?_⟩
  rw [exec_uWrdy_of_final p hm hw, completeWith_some (delay s.cfg.nPoll s) he]
  rfl

/-! ## The reset line (R99, R41) -/

/-- The last event of an entry leaves the reset line alone, except that of a `uRST`. -/
theorem LastEvent.rst {s u : State} {e : RomEntry} (h : LastEvent s e u) :
    u.rst = s.rst ∨ ∃ p l, e = ⟨p, .rst l⟩ ∧ u = pinWrite .rst l s := by
  cases h with
  | reset p l => exact .inr ⟨p, l, rfl, rfl⟩
  | _ => exact .inl rfl

/-- A step leaves the reset line alone, except the one that performs a `uRST`. -/
theorem StepsTo.rst {s t : State} (h : StepsTo s t) :
    t.rst = s.rst ∨
      ∃ p l, romEntry s.upc.toNat = some ⟨p, .rst l⟩ ∧ isSequencerOp s.op = true ∧
        Emits s t (.w .rst l) := by
  cases h with
  | acceptsProgram o a e w ws => exact .inl ((quiet_startMicro e _).2 .rst)
  | samples => exact .inl ((quiet_afterSample _ (pinRead s)).2 .rst)
  | starts e => exact .inl ((quiet_startMicro e s).2 .rst)
  | completes e u t ho he hu hc =>
    have hquiet := quiet_completeWith hc
    obtain hrst | ⟨p, l, rfl, rfl⟩ := hu.rst
    · exact .inl ((hquiet.2 .rst).trans hrst)
    · exact .inr ⟨p, l, he, ho, (emits_pinWrite .rst l s).quiet hquiet⟩
  | _ => exact .inl rfl

/-- Settles O33: a `uRST` emits the write of its level, and no other step changes the line. -/
theorem onlyResetMicroOpDrivesReset : Obligations.OnlyResetMicroOpDrivesReset := by
  intro s t h hne
  obtain ⟨p, l, he, ho, htrace, hpins⟩ := (stepsTo_of_step h).rst.resolve_left hne
  obtain rfl : t.rst = l := hpins .rst
  exact ⟨p, he, ho, htrace⟩

/-! ## WAIT_UNTIL_READY (R105 to R107) -/

/-- The acceptance of WAIT_UNTIL_READY starts its `uWRDY` at address 7 (R105, R96). -/
theorem step_accepts_waitUntilReady {s : State} {ws : List RequestWord} (ho : s.op = .idle)
    (hr : s.requests = requestWord 4 0 :: ws) :
    step s = .next
      { s with
        requests := ws, op := .waitUntilReady, upc := 7, wstate := .sample, pollcnt := 0 } := by
  rw [step_accepts (i := .waitUntilReady) (by simp [decodeRequest]) s ws ho hr]
  obtain ⟨-, hwait, -, -⟩ := sequencerRequestsAccepted { s with requests := ws } ho
  exact hwait

/-- After its `uWRDY` the program of WAIT_UNTIL_READY ends (R108). -/
theorem romEntry_waitEnd : romEntry (7 + 1) = some ⟨.keep, .done⟩ := by decide

/-- Settles O47: the acceptance, the busy wait at address 7, and the end at address 8. -/
theorem waitUntilReadyRun : Obligations.WaitUntilReadyRun := by
  intro j rest ws s ho ht hf hc hr hb
  obtain ⟨-, hwrdy, -, -⟩ := romEntry_first
  rw [run_step (step_accepts_waitUntilReady ho hr),
    wait_run 7 .keep ⟨.keep, .done⟩ hwrdy romEntry_waitEnd rest j _
      (by rfl) (by rfl) (by exact ht) (by simp [hf]) (by rfl) (by exact hc) (by exact hb)]
  simp [startMicro, endProgram_eq, annotState, ho]

/-- Settles O48: each busy sample and its wait lead back to where they started. -/
theorem waitUntilReadyMayNeverReturn : Obligations.WaitUntilReadyMayNeverReturn := by
  intro j rest ws s ho ht hf hc hr hb
  obtain ⟨-, hwrdy, -, -⟩ := romEntry_first
  rw [run_step (step_accepts_waitUntilReady ho hr),
    polls_run 7 .keep hwrdy rest j _
      (by rfl) (by rfl) (by exact ht) (by simp [hf]) (by rfl) (by exact hc) (by exact hb)]

end Sys2Proof.Machine

/-! # Where `PSTATE` changes -/

namespace Sys2Proof.Machine

/-- Starting an entry writes `PSTATE` only where the entry ends its program (R96, R102). -/
theorem startMicro_pstate (e : RomEntry) (s : State) :
    (startMicro e s).pstate =
      if isDone e then (annotState e.annot).getD s.pstate else s.pstate := by
  obtain ⟨p, o⟩ := e
  cases o with
  | done => exact endProgram_pstate s p
  | _ => rfl

/-- `PSTATE` after the entry `e` has completed and the next entry `e'` has been started (R96). -/
def pstateAfter (e e' : RomEntry) (q : PanelState) : PanelState :=
  if isDone e' then (annotState e'.annot).getD ((annotState e.annot).getD q)
  else (annotState e.annot).getD q

/-- The five places (R109): the address that completes, the next one, and the state annotated there. -/
def annotatedPlaces : List (Nat × Nat × PanelState) :=
  [(0, 1, .resetting), (9, 10, .resetting), (14, 15, .configuring), (37, 38, .ready),
    (44, 45, .sleeping)]

/-- In the listings the only entries that write `PSTATE` are those at the five places (R109). -/
theorem mem_annotatedPlaces {a : Nat} {e e' : RomEntry} {q : PanelState} (he : romEntry a = some e)
    (he' : romEntry (a + 1) = some e') (hd : isDone e = false) (hne : pstateAfter e e' q ≠ q) :
    (a, a + 1, pstateAfter e e' q) ∈ annotatedPlaces := by
  have all : ∀ b : Fin 46,
      (match romEntry b.val, romEntry (b.val + 1) with
        | some e, some e' =>
          isDone e || decide (pstateAfter e e' q = q) ||
            decide ((b.val, b.val + 1, pstateAfter e e' q) ∈ annotatedPlaces)
        | _, _ => true) = true := by
    cases q <;> decide
  have := all ⟨a, lt_of_romEntry he⟩
  simpa [he, he', hd, hne] using this

/-- Completing an entry starts the one at the next address (R96). -/
theorem completeWith_pstate {u t : State} {e : RomEntry} (hc : completeWith e.annot u = .next t) :
    ∃ e', romEntry (u.upc.toNat + 1) = some e' ∧ t.upc.toNat = u.upc.toNat + 1 ∧
      t.pstate = pstateAfter e e' u.pstate := by
  obtain ⟨e', he', rfl⟩ := enter_next hc
  obtain ⟨-, -, -, -, -, hupc, -⟩ := startMicro_frame e'
    { annotate e.annot u with upc := BitVec.ofNat 6 (u.upc.toNat + 1) }
  refine ⟨e', he', ?_, ?_⟩
  · rw [hupc]
    exact upc_toNat (lt_of_romEntry he')
  · simp only [startMicro_pstate, annotate_pstate, pstateAfter]

/-- The last event of an entry leaves `PSTATE` and `UPC` to the completion (R96). -/
theorem LastEvent.pstate_upc {s u : State} {e : RomEntry} (h : LastEvent s e u) :
    u.pstate = s.pstate ∧ u.upc = s.upc := by
  cases h <;> exact ⟨rfl, rfl⟩

/-- A step under the invariant keeps `PSTATE`, or completes an entry that is not the end of its program
and starts the next (R96, R109). -/
theorem StepsTo.pstate {s t : State} (h : StepsTo s t) (hs : machineInv s = true) :
    t.pstate = s.pstate ∨
      ∃ e e', romEntry s.upc.toNat = some e ∧ romEntry (s.upc.toNat + 1) = some e' ∧
        isDone e = false ∧ t.upc.toNat = s.upc.toNat + 1 ∧
        t.pstate = pstateAfter e e' s.pstate := by
  cases h with
  | acceptsProgram o a e w ws ho hr ha he =>
    exact .inl (by simp [startMicro_pstate, isDone_entryAddress ha he])
  | completes e u t ho he hu hc =>
    obtain ⟨e₀, he₀, hd, -⟩ := exists_romEntry_of_inv hs ho
    cases he.symm.trans he₀
    obtain ⟨e', he', hupc, hp⟩ := completeWith_pstate hc
    obtain ⟨hup, huu⟩ := hu.pstate_upc
    rw [huu] at he' hupc
    rw [hup] at hp
    exact .inr ⟨e, e', he, he', hd, hupc, hp⟩
  | samples =>
    obtain ⟨w, n, h⟩ | ⟨-, n, h⟩ := afterSample_cases (busyLevel s) (pinRead s)
    all_goals exact .inl (by rw [h]; rfl)
  | starts e hm he hk => simp [(hasNoStep_of_inv hs hm he).1] at hk
  | _ => exact .inl rfl

/-- Settles O34: a step that changes `PSTATE` completes one of the entries annotated in the listings. -/
theorem panelStateChangesAtFivePlaces : Obligations.PanelStateChangesAtFivePlaces := by
  intro s t hs h hne
  obtain ⟨e, e', he, he', hd, hupc, hp⟩ := ((stepsTo_of_step h).pstate hs).resolve_left hne
  rw [hp] at hne
  rw [hupc, hp]
  exact mem_annotatedPlaces he he' hd hne

end Sys2Proof.Machine

/-! # What the monitor reads from the two sequences -/

namespace Sys2Proof.Machine

/-- Between two windows the monitor reads the frames `fs` from the events `es`, and then is between two
windows again (R56). -/
def Reads (es : List Event) (fs : List WireFrame) : Prop :=
  ∀ (m : MonitorState) (rest : List Event), m.sck = .L → m.cs = .H →
    ∃ m' : MonitorState, m'.sck = .L ∧ m'.cs = .H ∧
      monitorFrom m (es ++ rest) = fs ++ monitorFrom m' rest

theorem Reads.append {es es' : List Event} {fs fs' : List WireFrame} (h : Reads es fs)
    (h' : Reads es' fs') : Reads (es ++ es') (fs ++ fs') := by
  intro m rest hsck hcs
  obtain ⟨m₁, hsck₁, hcs₁, hm₁⟩ := h m (es' ++ rest) hsck hcs
  obtain ⟨m₂, hsck₂, hcs₂, hm₂⟩ := h' m₁ rest hsck₁ hcs₁
  exact ⟨m₂, hsck₂, hcs₂, by rw [List.append_assoc, hm₁, hm₂, List.append_assoc]⟩

/-- The monitor that starts between two windows emits what is read. -/
theorem Reads.monitor_eq {es : List Event} {fs : List WireFrame} (h : Reads es fs)
    (din0 dc0 : Level) : monitor .L din0 dc0 .H es = fs := by
  obtain ⟨m', -, -, hm'⟩ := h ⟨.L, din0, dc0, .H, [], none⟩ [] rfl rfl
  simpa [monitor, monitorFrom] using hm'

/-! ## The parts of a sequence -/

/-- The monitor does not look at waits, samples and writes of the reset line (R56). -/
def isUnwatched : Event → Bool
  | .w p _ => decide (p = .rst)
  | .s _ | .t _ => true

theorem monitorFrom_of_isUnwatched {e : Event} (he : isUnwatched e = true) (m : MonitorState)
    (es : List Event) : monitorFrom m (e :: es) = monitorFrom m es := by
  cases e with
  | w p l =>
    obtain rfl : p = .rst := of_decide_eq_true he
    rfl
  | s l => rfl
  | t n => rfl

/-- From events it does not look at the monitor reads no frame. -/
theorem reads_of_isUnwatched {es : List Event} (hes : ∀ e ∈ es, isUnwatched e = true) :
    Reads es [] := by
  intro m rest hsck hcs
  refine ⟨m, hsck, hcs, ?_⟩
  induction es with
  | nil => rfl
  | cons e es ih =>
    obtain ⟨he, hes⟩ := List.forall_mem_cons.1 hes
    rw [List.cons_append, monitorFrom_of_isUnwatched he, ih hes]

theorem reads_delay (n : Nat) : Reads [.t n] [] := reads_of_isUnwatched (by simp [isUnwatched])

theorem reads_traceReset (c : Config) : Reads (traceReset c) [] :=
  reads_of_isUnwatched (by simp [traceReset, isUnwatched])

/-- However long the busy wait takes, no frame is read from it (R101, R106). -/
theorem reads_traceWait (c : Config) (j : Nat) : Reads (traceWait c j) [] := by
  refine reads_of_isUnwatched ?_
  induction j with
  | zero => simp [traceWait, tracePolls, isUnwatched]
  | succ j ih => simpa [traceWait, tracePolls, isUnwatched] using ih

theorem reads_traceFrame (c : Config) (k : FrameMode) (v : Byte) :
    Reads (traceFrame c k v) [byteFrame (dcLevel c k) v] :=
  fun m rest hsck hcs => ⟨afterByte m (dcLevel c k) v, hsck, hcs,
    monitorFrom_traceFrame m c k v rest hsck hcs⟩

/-- A transaction is read as its frames (R59). -/
theorem reads_traceTxn (c : Config) (code : Byte) (ds : List Byte) :
    Reads (traceTxn c code ds) (txnFrames c code ds) := by
  refine (reads_traceFrame c .cmd code).append (fs' := ds.map (byteFrame (dcLevel c .dat))) ?_
  induction ds with
  | nil => exact reads_of_isUnwatched (by simp)
  | cons d ds ih => exact (reads_traceFrame c .dat d).append ih

/-! ## The sequences -/

/-- INITIALIZE is read as its 21 frames (R123, R124). -/
theorem reads_traceInit (c : Config) (j : Nat) : Reads (traceInit c j) (initFrames c) := by
  have hhead := (((reads_traceReset c).append (reads_traceTxn c 0x01 [0x07, 0x07, 0x3F, 0x3F])).append
    (reads_traceTxn c 0x04 [])).append (reads_delay c.nPon)
  have htail := (((((reads_traceTxn c 0x00 [0x1F]).append
    (reads_traceTxn c 0x61 [0x03, 0x20, 0x01, 0xE0])).append (reads_traceTxn c 0x15 [0x00])).append
    (reads_traceTxn c 0x50 [0x10, 0x07])).append (reads_traceTxn c 0x60 [0x22])).append
    (reads_traceTxn c 0x13 [])
  exact (hhead.append (reads_traceWait c j)).append htail

/-- REFRESH_AND_SLEEP is read as its four frames (R129). -/
theorem reads_traceRefresh (c : Config) (j : Nat) : Reads (traceRefresh c j) (refreshFrames c) := by
  have hhead := ((reads_traceTxn c 0x12 []).append (reads_delay c.nRefresh)).append
    (reads_traceTxn c 0x02 [])
  exact (hhead.append (reads_traceWait c j)).append (reads_traceTxn c 0x07 [0xA5])

/-- Settles O55: each sequence is read part by part, and only its frames leave anything. -/
theorem monitorReadsTheSequences : Obligations.MonitorReadsTheSequences := fun j din0 dc0 c =>
  ⟨(reads_traceInit c j).monitor_eq din0 dc0, rfl, (reads_traceRefresh c j).monitor_eq din0 dc0⟩

end Sys2Proof.Machine

/-! # Runs of the sequences

What a listed entry does to the state it is performed in, and the run of any stretch of the listings
without a busy wait. -/

namespace Sys2Proof.Machine

/-! ## Performing an entry -/

/-- The state after a frame of mode `m` and byte `v` (R90, R92). -/
def sentFrame (m : FrameMode) (v : Byte) (s : State) : State :=
  { s with
    arg := v, fmode := m, fstate := .idle, dc := dcLevel s.cfg m, cs := .H, sck := .L
    din := lvl (v.getLsbD 0), sr := 0, bitcnt := 0, tstate := .idle
    trace := s.trace ++ traceFrame s.cfg m v }

/-- The state after the events of a micro-operation that does not wait for `BUSY` (R97 to R100). -/
def performed (o : MicroOp) (s : State) : State :=
  match o with
  | .cmd v => sentFrame .cmd v s
  | .dat v => sentFrame .dat v s
  | .rst l => { s with rst := l, trace := s.trace ++ [.w .rst l] }
  | .dly d => { s with trace := s.trace ++ [.t (delayOf s.cfg d)] }
  | .wrdy | .done => s

/-- The state after an entry with its annotation, but for `UPC` (R96). -/
def performEntry (s : State) (e : RomEntry) : State := annotate e.annot (performed e.op s)

/-- How many events a micro-operation that does not wait for `BUSY` has (R97 to R100). -/
def eventCount : MicroOp → Nat
  | .cmd _ | .dat _ => 27
  | .rst _ | .dly _ => 1
  | .wrdy | .done => 0

/-- The micro-operations that neither wait for `BUSY` nor end a program. -/
def isPlain : MicroOp → Bool
  | .cmd _ | .dat _ | .rst _ | .dly _ => true
  | .wrdy | .done => false

/-- `s` once the entry at address `a` has been entered (R96). -/
def enteredAt (a : Nat) (s : State) : State :=
  match romEntry a with
  | none => s
  | some e => startMicro e { s with upc := BitVec.ofNat 6 a }

theorem enteredAt_eq {a : Nat} {e : RomEntry} (he : romEntry a = some e) (s : State) :
    enteredAt a s = startMicro e { s with upc := BitVec.ofNat 6 a } := by
  simp [enteredAt, he]

/-- A plain entry is performed, and the next one is entered (R96 to R100). -/
theorem run_entry {a : Nat} {e : RomEntry} (he : romEntry a = some e) (hp : isPlain e.op = true)
    {s : State} (ho : isSequencerOp s.op = true) (ht : s.tstate = .idle) (hf : s.fstate = .idle) :
    run (eventCount e.op) (enteredAt a s) = .next (enteredAt (a + 1) (performEntry s e)) := by
  have hd : isDone e = false := by
    obtain ⟨p, o⟩ := e
    cases o <;> simp_all [isPlain, isDone]
  obtain ⟨e', he', -⟩ := romEntry_succ he hd
  have hne : s.fstate ≠ .dc := by simp [hf]
  rw [enteredAt_eq he, enteredAt_eq he', performEntry, annotate_eq]
  obtain ⟨p, o⟩ := e
  cases o with
  | cmd v => exact frameEntry_run a _ e' _ rfl he he' ho ht rfl
  | dat v => exact frameEntry_run a _ e' _ rfl he he' ho ht rfl
  | rst l => exact rst_run a p l e' _ rfl he he' ho ht hne
  | dly d => exact dly_run a p d e' _ rfl he he' ho ht hne
  | wrdy => cases hp
  | done => cases hp

/-- Performing a plain entry keeps the layers idle and the operation in progress (R39). -/
theorem performEntry_frame (s : State) {e : RomEntry} (ht : s.tstate = .idle)
    (hf : s.fstate = .idle) :
    (performEntry s e).op = s.op ∧ (performEntry s e).tstate = .idle ∧
      (performEntry s e).fstate = .idle := by
  rw [performEntry, annotate_eq]
  obtain ⟨p, o⟩ := e
  cases o <;> simp [performed, sentFrame, ht, hf]

/-- A stretch of plain entries of the listings is performed one after the other, and the entry after it
is entered (R96 to R100). -/
theorem run_entries {a : Nat} {es : List RomEntry} (hes : es <+: romListing.drop a)
    (hp : ∀ e ∈ es, isPlain e.op = true) {s : State} (ho : isSequencerOp s.op = true)
    (ht : s.tstate = .idle) (hf : s.fstate = .idle) :
    run (es.map fun e => eventCount e.op).sum (enteredAt a s) =
      .next (enteredAt (a + es.length) (es.foldl performEntry s)) := by
  induction es generalizing a s with
  | nil => rfl
  | cons e es ih =>
    obtain ⟨r, hr⟩ := hes
    have he : romEntry a = some e := by
      rw [romEntry_eq_romListing, ← List.head?_drop, ← hr]
      rfl
    have hes' : es <+: romListing.drop (a + 1) := by
      rw [← List.tail_drop, ← hr]
      exact ⟨r, rfl⟩
    obtain ⟨hpe, hps⟩ := List.forall_mem_cons.1 hp
    obtain ⟨hop, hts, hfs⟩ := performEntry_frame s (e := e) ht hf
    have hone := run_entry he hpe ho ht hf
    rw [List.map_cons, List.sum_cons, run_add _ _ _ _ hone,
      ih hes' hps (by rw [hop]; exact ho) hts hfs]
    simp [Nat.add_assoc, Nat.add_comm 1]

/-- A stretch of `k` plain entries of the listings from address `a` on, with its count of events, the
address after it and the state after it. -/
theorem run_stretch {a n b : Nat} (k : Nat)
    (hp : ∀ e ∈ (romListing.drop a).take k, isPlain e.op = true) {s t : State}
    (ho : isSequencerOp s.op = true) (ht : s.tstate = .idle) (hf : s.fstate = .idle)
    (hn : (((romListing.drop a).take k).map fun e => eventCount e.op).sum = n)
    (hb : a + ((romListing.drop a).take k).length = b)
    (hs : ((romListing.drop a).take k).foldl performEntry s = t) :
    run n (enteredAt a s) = .next (enteredAt b t) := by
  subst hn hb hs
  exact run_entries ⟨_, List.take_append_drop k _⟩ hp ho ht hf

/-- A busy wait at address `a` that sees busy `j` times and then ready, after which the next entry is
entered (R101, R106). -/
theorem run_busyWait {a : Nat} (he : romEntry a = some ⟨.keep, .wrdy⟩) {rest : List Level} {j : Nat}
    {s : State} (ho : isSequencerOp s.op = true) (ht : s.tstate = .idle) (hf : s.fstate = .idle)
    (hc : s.cfg.busyTimeout = none) (hb : s.busyIn = List.replicate j .L ++ .H :: rest) :
    run (2 * j + 2) (enteredAt a s) = .next (enteredAt (a + 1)
      { s with
        busyIn := rest, sampleNo := s.sampleNo + (j + 1), wstate := .final, pollcnt := 0
        trace := s.trace ++ traceWait s.cfg j }) := by
  have hne : s.fstate ≠ .dc := by simp [hf]
  obtain ⟨e', he', -⟩ := romEntry_succ he rfl
  rw [enteredAt_eq he, enteredAt_eq he']
  exact wait_run a .keep e' he he' rest j _ rfl ho ht hne rfl hc hb

/-- Entering the end of a program returns (R96, R102). -/
theorem enteredAt_done {a : Nat} {p : Annot} (he : romEntry a = some ⟨p, .done⟩) (s : State) :
    enteredAt a s =
      { s with
        upc := BitVec.ofNat 6 a, pstate := (annotState p).getD s.pstate, status := 0
        op := .idle } := by
  rw [enteredAt_eq he]
  exact endProgram_eq p _

/-! ## The stretches of INITIALIZE and REFRESH_AND_SLEEP

Each of the two programs is a stretch of plain entries, a busy wait, another stretch, and the end. -/

section Stretches

variable {s : State} (ho : isSequencerOp s.op = true) (ht : s.tstate = .idle)
  (hf : s.fstate = .idle)

include ho ht hf

/-- INITIALIZE up to its busy wait at address 22 (R122, R123). -/
theorem run_initHead :
    run 169 (enteredAt 9 s) = .next (enteredAt 22
      { s with
        pstate := .configuring, rst := .H, cs := .H, sck := .L, dc := s.cfg.dcCmd, din := .L
        arg := 0x04, fmode := .cmd, fstate := .idle, sr := 0, bitcnt := 0, tstate := .idle
        trace := s.trace ++ traceInitHead s.cfg }) := by
  refine run_stretch 13 (by decide) ho ht hf rfl rfl ?_
  simp [romListing, performEntry, annotate, annotState, performed, sentFrame, delayOf, dcLevel, lvl,
    traceInitHead, traceReset, traceTxn]

/-- INITIALIZE from its busy wait to its end at address 38 (R122, R123). -/
theorem run_initTail :
    run 405 (enteredAt 23 s) = .next (enteredAt 38
      { s with
        cs := .H, sck := .L, dc := s.cfg.dcCmd, din := .H
        arg := 0x13, fmode := .cmd, fstate := .idle, sr := 0, bitcnt := 0, tstate := .idle
        trace := s.trace ++ traceInitTail s.cfg }) := by
  refine run_stretch 15 (by decide) ho ht hf rfl rfl ?_
  simp [romListing, performEntry, annotate, annotState, performed, sentFrame, dcLevel, lvl,
    traceInitTail, traceTxn]

/-- REFRESH_AND_SLEEP up to its busy wait at address 42 (R128, R129). -/
theorem run_refreshHead :
    run 55 (enteredAt 39 s) = .next (enteredAt 42
      { s with
        cs := .H, sck := .L, dc := s.cfg.dcCmd, din := .L
        arg := 0x02, fmode := .cmd, fstate := .idle, sr := 0, bitcnt := 0, tstate := .idle
        trace := s.trace ++ traceRefreshHead s.cfg }) := by
  refine run_stretch 3 (by decide) ho ht hf rfl rfl ?_
  simp [romListing, performEntry, annotate, annotState, performed, sentFrame, delayOf, dcLevel, lvl,
    traceRefreshHead, traceTxn]

/-- REFRESH_AND_SLEEP from its busy wait to its end at address 45 (R128, R129). -/
theorem run_refreshTail :
    run 54 (enteredAt 43 s) = .next (enteredAt 45
      { s with
        cs := .H, sck := .L, dc := s.cfg.dcCmd.other, din := .H
        arg := 0xA5, fmode := .dat, fstate := .idle, sr := 0, bitcnt := 0, tstate := .idle
        trace := s.trace ++ traceRefreshTail s.cfg }) := by
  refine run_stretch 2 (by decide) ho ht hf rfl rfl ?_
  simp [romListing, performEntry, annotate, annotState, performed, sentFrame, dcLevel, lvl,
    traceRefreshTail, traceTxn]

end Stretches

/-! ## The two sequences -/

section Acceptance

variable {s : State} {ws : List RequestWord}

/-- The acceptance of INITIALIZE enters its program at address 9 (R121, R96). -/
theorem step_accepts_initialize (ho : s.op = .idle) (hr : s.requests = requestWord 5 0 :: ws) :
    step s = .next (enteredAt 9 { s with requests := ws, op := .initializeOp }) := by
  obtain ⟨-, -, hinit, -⟩ := romEntry_first
  rw [step_accepts (i := .initializeOp) (by simp [decodeRequest]) s ws ho hr, enteredAt_eq hinit]
  exact accept_some .initializeOp 9 _ hinit { s with requests := ws } ho

/-- The acceptance of REFRESH_AND_SLEEP enters its program at address 39 (R127, R96). -/
theorem step_accepts_refreshAndSleep (ho : s.op = .idle)
    (hr : s.requests = requestWord 6 0 :: ws) :
    step s = .next (enteredAt 39 { s with requests := ws, op := .refreshAndSleep }) := by
  obtain ⟨-, -, -, hrefresh⟩ := romEntry_first
  rw [step_accepts (i := .refreshAndSleep) (by simp [decodeRequest]) s ws ho hr,
    enteredAt_eq hrefresh]
  exact accept_some .refreshAndSleep 39 _ hrefresh { s with requests := ws } ho

end Acceptance

/-- The busy waits of the two sequences and their ends (R122, R128). -/
theorem romEntry_waits_and_ends :
    romEntry 22 = some ⟨.keep, .wrdy⟩ ∧ romEntry 38 = some ⟨.ready, .done⟩ ∧
      romEntry 42 = some ⟨.keep, .wrdy⟩ ∧ romEntry 45 = some ⟨.sleeping, .done⟩ := by
  decide

/-- Settles O50: the acceptance, the stretch up to the busy wait, the wait, the stretch after it, and
the end. -/
theorem initializeRun : Obligations.InitializeRun := by
  intro j rest ws s ho ht hf hc hr hb
  obtain ⟨hwait, hend, -, -⟩ := romEntry_waits_and_ends
  rw [show 2 * j + 577 = 169 + ((2 * j + 2) + 405) + 1 by omega,
    run_step (step_accepts_initialize ho hr),
    run_add _ _ _ _ (run_initHead (by rfl) (by exact ht) (by exact hf)),
    run_add _ _ _ _ (run_busyWait hwait (by rfl) (by rfl) (by rfl) (by exact hc) (by exact hb)),
    run_initTail (by rfl) (by rfl) (by rfl), enteredAt_done hend]
  simp [ho, annotState, traceInit]

/-- Settles O51: the acceptance, the stretch up to the busy wait, the wait, the stretch after it, and
the end. -/
theorem refreshAndSleepRun : Obligations.RefreshAndSleepRun := by
  intro j rest ws s ho ht hf hc hr hb
  obtain ⟨-, -, hwait, hend⟩ := romEntry_waits_and_ends
  rw [show 2 * j + 112 = 55 + ((2 * j + 2) + 54) + 1 by omega,
    run_step (step_accepts_refreshAndSleep ho hr),
    run_add _ _ _ _ (run_refreshHead (by rfl) (by exact ht) (by exact hf)),
    run_add _ _ _ _ (run_busyWait hwait (by rfl) (by rfl) (by rfl) (by exact hc) (by exact hb)),
    run_refreshTail (by rfl) (by rfl) (by rfl), enteredAt_done hend]
  simp [ho, annotState, traceRefresh]

end Sys2Proof.Machine

/-! # The core does not stop

Under the invariant a step goes on, unless an idle core meets the reserved operation code. -/

namespace Sys2Proof.Machine

/-- An idle core accepts every request but the reserved operation (R26, R68). -/
theorem exec_request_goesOn {s : State} {w : RequestWord} (ho : s.op = .idle)
    (hw : decodeRequest w ≠ .reservedOp7) : ∃ t, exec (decodeRequest w) s = .next t := by
  obtain ⟨hreset, hwait, hinit, hrefresh⟩ := sequencerRequestsAccepted s ho
  revert hw
  simp only [decodeRequest]
  split <;> intro hw
  · exact ⟨_, whenIdle_pos _ ho⟩
  · exact ⟨_, whenIdle_pos _ ho⟩
  · exact ⟨_, whenIdle_pos _ ho⟩
  · exact ⟨_, hreset⟩
  · exact ⟨_, hwait⟩
  · exact ⟨_, hinit⟩
  · exact ⟨_, hrefresh⟩
  · exact absurd rfl hw

/-- In a state of the invariant the machine goes on, or it is idle and the next request is the reserved
operation, which is refused (R133, R68). -/
theorem step_goesOn_or_refused {s : State} (hs : machineInv s = true) :
    (∃ t, step s = .next t) ∨
      (s.op = .idle ∧ ∃ w ws, s.requests = w :: ws ∧ decodeRequest w = .reservedOp7 ∧
        step s = .refused .reservedOperationCode) := by
  by_cases ho : s.op = .idle
  · cases hr : s.requests with
    | nil => exact .inl ⟨s, idleCoreWaits s ho hr⟩
    | cons w ws =>
      rw [step_request s w ws ho hr]
      by_cases hw : decodeRequest w = .reservedOp7
      · exact .inr ⟨ho, w, ws, rfl, hw, by rw [hw]; rfl⟩
      · exact .inl (exec_request_goesOn (by exact ho) hw)
  · exact .inl (step_goesOn_of_busy hs ho)

/-- A step keeps the host's program well formed: it only takes requests from it (R32). -/
theorem programWf_of_step {s t : State} (hp : programWf s = true) (h : step s = .next t) :
    programWf t = true := by
  obtain ⟨-, hr | ⟨-, w, hr⟩, -⟩ := environmentIsOnlyConsumed s t h
  · rwa [programWf, hr]
  · rw [programWf, hr, List.all_cons, Bool.and_eq_true] at hp
    exact hp.2

/-- With a well-formed program the machine has a next state, which the two hypotheses hold of again. -/
theorem exists_step_of_programWf {s : State} (hs : machineInv s = true) (hp : programWf s = true) :
    ∃ t, step s = .next t ∧ machineInv t = true ∧ programWf t = true := by
  obtain ⟨t, h⟩ | ⟨-, w, ws, hr, hw, -⟩ := step_goesOn_or_refused hs
  · exact ⟨t, h, stepKeepsTheInvariant s t hs h, programWf_of_step hp h⟩
  · simp [programWf, hr, hw] at hp

/-- Settles O41: by induction on the number of steps, with one step's progress and preservation. -/
theorem wellFormedProgramNeverStops : Obligations.WellFormedProgramNeverStops := by
  intro n
  induction n with
  | zero => exact fun s hs hp => ⟨s, rfl, hs, hp⟩
  | succ n ih =>
    intro s hs hp
    obtain ⟨t, h, ht, hpt⟩ := exists_step_of_programWf hs hp
    rw [run_step h]
    exact ih t ht hpt

/-- Settles O42: the one way not to go on is the refusal of the reserved operation. -/
theorem onlyTheReservedCodeStops : Obligations.OnlyTheReservedCodeStops := by
  intro s hs
  obtain ⟨t, h⟩ | ⟨ho, w, ws, hr, hw, h⟩ := step_goesOn_or_refused hs <;> rw [h]
  · exact ⟨nofun, nofun⟩
  · exact ⟨nofun, fun _ _ => ⟨ho, w, ws, hr, hw⟩⟩

end Sys2Proof.Machine

/-! # Busy waits that give up -/

namespace Sys2Proof.Machine

/-- Settles O49: the acceptance, and the busy wait at address 7 up to its last sample. -/
theorem waitUntilReadyTimesOut : Obligations.WaitUntilReadyTimesOut := by
  intro n rest ws s ho ht hf hc hr hb
  obtain ⟨-, hwrdy, -, -⟩ := romEntry_first
  rw [run_step (step_accepts_waitUntilReady ho hr),
    giveUp_run 7 .keep hwrdy rest (n + 1) n _
      (by rfl) (by rfl) (by exact ht) (by simp [hf]) (by rfl) (by exact hc) (by simp)
      (by exact hb)]
  simp [ho]

/-- A busy wait at address `a` that sees busy as often as `BUSY_TIMEOUT` says returns from there, with
`STATUS` 1 (R139). -/
theorem run_busyWait_givesUp {a : Nat} (he : romEntry a = some ⟨.keep, .wrdy⟩) {rest : List Level}
    {n : Nat} {s : State} (ho : isSequencerOp s.op = true) (ht : s.tstate = .idle)
    (hf : s.fstate = .idle) (hc : s.cfg.busyTimeout = some (n + 1))
    (hb : s.busyIn = List.replicate (n + 1) .L ++ rest) :
    run (2 * n + 1) (enteredAt a s) = .next
      { s with
        upc := BitVec.ofNat 6 a, wstate := .sample, busyIn := rest
        sampleNo := s.sampleNo + (n + 1), pollcnt := n + 1, status := 1, op := .idle
        trace := s.trace ++ (tracePolls s.cfg n ++ [.s .L]) } := by
  rw [enteredAt_eq he]
  exact giveUp_run a .keep he rest (n + 1) n _ rfl ho ht (by simp [startMicro, hf]) rfl hc
    (by simp [startMicro]) hb

/-- Settles O52: the acceptance, the stretch up to the busy wait, and the wait up to its last sample. -/
theorem sequencesTimeOut : Obligations.SequencesTimeOut := by
  intro n rest ws s ho ht hf hc hb
  obtain ⟨hinit, -, hrefresh, -⟩ := romEntry_waits_and_ends
  constructor <;> intro hr
  · rw [show 2 * n + 171 = 169 + (2 * n + 1) + 1 by omega,
      run_step (step_accepts_initialize ho hr),
      run_add _ _ _ _ (run_initHead (by rfl) (by exact ht) (by exact hf)),
      run_busyWait_givesUp hinit (by rfl) (by rfl) (by rfl) (by exact hc) (by exact hb)]
    exact ⟨_, rfl, rfl, rfl, rfl, rfl, rfl, List.append_assoc _ _ _⟩
  · rw [show 2 * n + 57 = 55 + (2 * n + 1) + 1 by omega,
      run_step (step_accepts_refreshAndSleep ho hr),
      run_add _ _ _ _ (run_refreshHead (by rfl) (by exact ht) (by exact hf)),
      run_busyWait_givesUp hrefresh (by rfl) (by rfl) (by rfl) (by exact hc) (by exact hb)]
    exact ⟨_, rfl, rfl, rfl, rfl, rfl, rfl, List.append_assoc _ _ _⟩

end Sys2Proof.Machine

/-! # What the draws of `BUSY` change

Outside a sample the step does the same with other draws, and leaves those (R135). -/

namespace Sys2Proof.Machine

section Draws

variable {ls : List Level} {n : Nat}

/-- `s` with other levels of `BUSY` to come, and another count of the samples taken. -/
def redraw (ls : List Level) (n : Nat) (s : State) : State := { s with busyIn := ls, sampleNo := n }

/-! ## Entering and completing -/

theorem pinWrite_redraw (p : OutPin) (l : Level) (s : State) :
    pinWrite p l (redraw ls n s) = redraw ls n (pinWrite p l s) := by
  cases p <;> rfl

theorem startMicro_redraw (e : RomEntry) (s : State) :
    startMicro e (redraw ls n s) = redraw ls n (startMicro e s) := by
  obtain ⟨p, o⟩ := e
  cases o with
  | done => cases p <;> rfl
  | _ => rfl

theorem enter_redraw (a : Nat) (s : State) :
    enter a (redraw ls n s) = mapState (redraw ls n) (enter a s) := by
  unfold enter
  cases romEntry a with
  | none => rfl
  | some e =>
    exact congrArg Host.Outcome.next (startMicro_redraw e { s with upc := BitVec.ofNat 6 a })

theorem completeWith_redraw (p : Annot) (s : State) :
    completeWith p (redraw ls n s) = mapState (redraw ls n) (completeWith p s) := by
  rw [completeWith, completeWith, annotate_eq, annotate_eq]
  exact enter_redraw _ { s with pstate := (annotState p).getD s.pstate }

theorem complete_redraw (s : State) :
    complete (redraw ls n s) = mapState (redraw ls n) (complete s) := by
  have hupc : (redraw ls n s).upc = s.upc := rfl
  unfold complete
  rw [hupc]
  cases romEntry s.upc.toNat with
  | none => rfl
  | some e => exact completeWith_redraw e.annot s

/-! ## The guards -/

theorem whenIdle_redraw {s : State} {r r' : Result} (h : r' = mapState (redraw ls n) r) :
    whenIdle (redraw ls n s) r' = mapState (redraw ls n) (whenIdle s r) := by
  have hop : (redraw ls n s).op = s.op := rfl
  rw [h, whenIdle, whenIdle, hop]
  split <;> rfl

theorem whenFrameDue_redraw {s : State} {r r' : Result} (h : r' = mapState (redraw ls n) r) :
    whenFrameDue (redraw ls n s) r' = mapState (redraw ls n) (whenFrameDue s r) := by
  have hdue : frameDue (redraw ls n s) = frameDue s := rfl
  rw [h, whenFrameDue, whenFrameDue, hdue]
  split <;> rfl

/-- A micro-operation needs the argument only where it is due. -/
theorem whenMicroDue_redraw {s : State} {r r' : Result}
    (h : microDue s = true → r' = mapState (redraw ls n) r) :
    whenMicroDue (redraw ls n s) r' = mapState (redraw ls n) (whenMicroDue s r) := by
  have hdue : microDue (redraw ls n s) = microDue s := rfl
  rw [whenMicroDue, whenMicroDue, hdue]
  split
  next hm => exact h hm
  next => rfl

/-! ## The layers -/

theorem transportStep_redraw (s : State) :
    transportStep (redraw ls n s) = mapState (redraw ls n) (transportStep s) := by
  have htp : (redraw ls n s).tstate = s.tstate := rfl
  unfold transportStep
  rw [htp]
  cases s.tstate with
  | csh =>
    have hop : (redraw ls n s).op = s.op := rfl
    simp only [stepReleaseCs, hop]
    split
    · rfl
    · exact complete_redraw (releaseCs s)
  | _ => rfl

theorem accept_redraw (o : Op) (a : Nat) (s : State) :
    accept o a (redraw ls n s) = mapState (redraw ls n) (accept o a s) :=
  whenIdle_redraw (enter_redraw a { s with op := o })

theorem sendFrame_redraw (m : FrameMode) (b : Byte) (s : State) :
    sendFrame m b (redraw ls n s) = mapState (redraw ls n) (sendFrame m b s) :=
  whenFrameDue_redraw rfl

/-- The two waits of `uWRDY` take no sample (R101). -/
theorem execUWrdy_redraw (p : Annot) {s : State} (h : microDue s = true → s.wstate ≠ .sample) :
    execUWrdy p (redraw ls n s) = mapState (redraw ls n) (execUWrdy p s) := by
  refine whenMicroDue_redraw fun hm => ?_
  have hw : (redraw ls n s).wstate = s.wstate := rfl
  rw [hw]
  cases hws : s.wstate with
  | sample => exact absurd hws (h hm)
  | poll => rfl
  | final => exact completeWith_redraw p (delay s.cfg.nPoll s)

/-- The one instruction that reads a draw is a `uWRDY` at a sample (R101, R135). -/
theorem exec_redraw (i : Instr) {s : State}
    (h : ∀ p, i = .uWrdy p → microDue s = true → s.wstate ≠ .sample) :
    exec i (redraw ls n s) = mapState (redraw ls n) (exec i s) := by
  cases i with
  | transmitByte v => exact whenIdle_redraw rfl
  | sendCommand c => exact whenIdle_redraw rfl
  | sendData d => exact whenIdle_redraw rfl
  | hardwareReset => exact accept_redraw _ _ s
  | waitUntilReady => exact accept_redraw _ _ s
  | initializeOp => exact accept_redraw _ _ s
  | refreshAndSleep => exact accept_redraw _ _ s
  | reservedOp7 => rfl
  | uCmd p v => exact whenMicroDue_redraw fun _ => rfl
  | uDat p v => exact whenMicroDue_redraw fun _ => rfl
  | uRst p l => exact whenMicroDue_redraw fun _ => completeWith_redraw p (pinWrite .rst l s)
  | uDly p d =>
    exact whenMicroDue_redraw fun _ => completeWith_redraw p (delay (delayOf s.cfg d) s)
  | uWrdy p => exact execUWrdy_redraw p (h p rfl)
  | uEnd p => exact whenMicroDue_redraw fun _ => by cases p <;> rfl
  | _ => exact sendFrame_redraw _ _ s

/-- The entry that runs as `uWRDY` is one (R101). -/
theorem op_eq_wrdy_of_toInstr {e : RomEntry} {p : Annot} (h : e.toInstr = .uWrdy p) :
    e.op = .wrdy := by
  obtain ⟨q, o⟩ := e
  cases o <;> simp_all [RomEntry.toInstr]

/-- A step that takes no sample does not read the draws: each layer has its lemma (R135). -/
theorem step_redraw {s : State} (h : samplesNext s = false) :
    step (redraw ls n s) = mapState (redraw ls n) (step s) := by
  by_cases ho : s.op = .idle
  · cases hr : s.requests with
    | nil => rw [idleCoreWaits s ho hr, idleCoreWaits (redraw ls n s) ho hr]; rfl
    | cons w ws =>
      rw [step_request s w ws ho hr, step_request (redraw ls n s) w ws ho hr]
      refine exec_redraw (s := { s with requests := ws }) _ fun _ _ hm => ?_
      exact absurd ho (idle_and_busy_of_microDue hm).2
  by_cases ht : s.tstate = .idle
  · by_cases hf : s.fstate = .dc
    · rw [step_frame s ho ht hf, step_frame (redraw ls n s) ho ht hf]
      exact exec_redraw _ fun _ _ hm => absurd hf ((microDue_iff s).1 hm).2.1
    · cases hq : isSequencerOp s.op with
      | false => rw [step_noStepDue s ho ht hf hq, step_noStepDue (redraw ls n s) ho ht hf hq]; rfl
      | true =>
        cases he : romEntry s.upc.toNat with
        | none =>
          rw [step_romAddressAbsent s ht hf hq he,
            step_romAddressAbsent (redraw ls n s) ht hf hq he]
          rfl
        | some e =>
          rw [step_micro s e hq ht hf he, step_micro (redraw ls n s) e hq ht hf he]
          refine exec_redraw _ fun p hi hm hw => ?_
          rw [samplesNext_eq he] at h
          simp [hm, hw, op_eq_wrdy_of_toInstr hi] at h
  · rw [step_transport s ho ht, step_transport (redraw ls n s) ho ht]
    exact transportStep_redraw s

end Draws

/-- Settles O30: a step that takes no sample does not read the draws, and keeps them. -/
theorem busyIsIgnoredOutsideSamples : Obligations.BusyIsIgnoredOutsideSamples :=
  fun _ _ _ h => step_redraw h

end Sys2Proof.Machine

/-! # The resets

The panel's hardware reset as a whole operation, and the block reset of the core. -/

namespace Sys2Proof.Machine

/-! ## HARDWARE_RESET (R103, R104, R147) -/

/-- The acceptance of HARDWARE_RESET enters its program at address 0 (R103, R96). -/
theorem step_accepts_hardwareReset {s : State} {ws : List RequestWord} (ho : s.op = .idle)
    (hr : s.requests = requestWord 3 0 :: ws) :
    step s = .next (enteredAt 0 { s with requests := ws, op := .hardwareReset }) := by
  obtain ⟨hreset, -, -, -⟩ := romEntry_first
  rw [step_accepts (i := .hardwareReset) (by simp [decodeRequest]) s ws ho hr, enteredAt_eq hreset]
  exact accept_some .hardwareReset 0 _ hreset { s with requests := ws } ho

/-- The program of HARDWARE_RESET up to its end at address 6 (R104, R108). -/
theorem run_resetProgram {s : State} (ho : isSequencerOp s.op = true) (ht : s.tstate = .idle)
    (hf : s.fstate = .idle) :
    run 6 (enteredAt 0 s) = .next (enteredAt 6
      { s with rst := .H, pstate := .resetting, trace := s.trace ++ traceReset s.cfg }) := by
  refine run_stretch 6 (by decide) ho ht hf rfl rfl ?_
  simp [romListing, performEntry, annotate, annotState, performed, delayOf, traceReset]

/-- HARDWARE_RESET ends at address 6, without an annotation (R108). -/
theorem romEntry_resetEnd : romEntry 6 = some ⟨.keep, .done⟩ := by decide

/-- Settles O46: the acceptance, the six entries of the program, and the end. -/
theorem hardwareResetRun : Obligations.HardwareResetRun := by
  intro ws s ho ht hf hr
  rw [run_step (step_accepts_hardwareReset ho hr),
    run_resetProgram (by rfl) (by exact ht) (by exact hf), enteredAt_done romEntry_resetEnd]
  simp [ho, annotState, traceReset]

/-! ## The block reset (R146, R38) -/

/-- A reset state stays one under any parameters and environment: R38 gives values to registers only. -/
theorem afterReset_with_environment {s : State} (h : afterReset s = true) (c : Config)
    (ws : List RequestWord) (ls : List Level) (n : Nat) :
    afterReset { s with cfg := c, requests := ws, busyIn := ls, sampleNo := n } = true := h

/-- Settles O40: the block reset is `State.reset` under the parameters and environment it finds. -/
theorem blockResetAbandonsTheOperation : Obligations.BlockResetAbandonsTheOperation := by
  obtain ⟨hreset, -⟩ := resetMeetsTheInvariant
  exact fun s => ⟨afterReset_with_environment hreset _ _ _ _, rfl, rfl, rfl⟩

end Sys2Proof.Machine
